-- ==== Sys2Proof/Word.lean ====
section
/-! DEFINITION. The word of the block: every register and every memory word is 32 bits (00_scope.md R5, 20_memory.md R42). -/

namespace Sys2Proof

/-- A 32-bit word: a register, a pixel, a host address, a command word. -/
abbrev Word := BitVec 32

end Sys2Proof
end

