-- ==== Sys2Proof/Syntax.lean ====
section
/-! DEFINITION. The syntax of everything that reaches the block: commands, host transactions, inputs, responses, register names. -/

namespace Sys2Proof

/-- The channel of a pixel, in the source's order (30_encoding.md R50, R51). -/
inductive Channel where
  | red
  | green
  | blue
  | alpha
deriving DecidableEq, Repr

/-- The twelve commands, one constructor per row of spec/opcode_table.json (30_encoding.md R53).
The operands are in fixed registers (R54); only CHAN takes a field of the command word. -/
inductive Instr where
  /-- CHAN (40_codec.md R62) -/
  | chan (k : Channel)
  /-- PACK (40_codec.md R63) -/
  | pack
  /-- IDX (41_mapper.md R67) -/
  | idx
  /-- INB (41_mapper.md R68) -/
  | inb
  /-- ACLR (42_averager.md R73) -/
  | aclr
  /-- AING (42_averager.md R75) -/
  | aing
  /-- AINGI (42_averager.md R76) -/
  | aingi
  /-- AAVG (42_averager.md R77) -/
  | aavg
  /-- SQUASH (43_downsampler.md R82) -/
  | squash
  /-- CROT (44_channel_rotator.md R86) -/
  | crot
  /-- BLUR (45_blur_engine.md R91) -/
  | blur
  /-- EXPAND (46_bilinear_upsampler.md R96) -/
  | expand
deriving DecidableEq, Repr

/-- The three fields of a command word (30_encoding.md R52), with no check made of them. -/
structure CommandFields where
  zero : BitVec 26
  sel  : BitVec 2
  op   : BitVec 4
deriving DecidableEq, Repr

/-- Why a command word is illegal: the three conditions of 30_encoding.md R55. -/
inductive IllegalWord where
  /-- bits 31:6 are not zero -/
  | zeroFieldNotZero
  /-- the opcode is 0x0, 0xD, 0xE or 0xF -/
  | reservedOpcode
  /-- bits 5:4 are not zero and the opcode is not CHAN's -/
  | selectorNotZero
deriving DecidableEq, Repr

/-- The 18 locations of the register space (20_memory.md R33). CMD has no storage. -/
inductive Reg where
  | cmd | status | cause | fcmd | res
  | a0 | a1 | a2 | a3
  | srcW | srcH | dstW | dstH
  | sumR | sumG | sumB | sumA | count
deriving DecidableEq, Repr

/-- A host transaction (20_memory.md R30). -/
inductive Txn where
  /-- `WR haddr, data` -/
  | wr (haddr data : Word)
  /-- `RD haddr` -/
  | rd (haddr : Word)
deriving DecidableEq, Repr

/-- The response of a transaction (20_memory.md R31). -/
inductive Response where
  /-- `OK(v)`, the answer of a defined read -/
  | okValue (v : Word)
  /-- `OK`, the answer of a defined write -/
  | ok
  /-- `ERR`, the answer of a transaction that is not defined or is refused in the faulted state -/
  | err
deriving DecidableEq, Repr

/-- What the world outside can do to the block: a transaction on the host port (20_memory.md R30), or an
assertion and release of the reset input (70_reset_and_hazards.md R120). -/
inductive Input where
  | transaction (t : Txn)
  | reset
deriving DecidableEq, Repr

end Sys2Proof
end

