-- ==== Sys2Proof/Decode.lean ====
section
/-! DEFINITION. Decoding of a command word, total on all 2^32 words and rejecting by name (30_encoding.md R52 to R55, R58),
and the encoder written from the same tables. -/

namespace Sys2Proof

/-- `op`, bits 3:0 (30_encoding.md R52). -/
def wordOp (w : Word) : BitVec 4 := w.extractLsb' 0 4

/-- `sel`, bits 5:4. -/
def wordSel (w : Word) : BitVec 2 := w.extractLsb' 4 2

/-- `zero`, bits 31:6. -/
def wordZero (w : Word) : BitVec 26 := w.extractLsb' 6 26

/-- The three fields of a command word. -/
def wordFields (w : Word) : CommandFields :=
  { zero := wordZero w, sel := wordSel w, op := wordOp w }

/-- The channel a selector names: 0 red, 1 green, 2 blue, 3 alpha (30_encoding.md R51). -/
def channelOfSel (sel : BitVec 2) : Channel :=
  match sel.toNat with
  | 0 => .red
  | 1 => .green
  | 2 => .blue
  | _ => .alpha

/-- The selector of a channel (30_encoding.md R51). -/
def selOfChannel : Channel → BitVec 2
  | .red => 0
  | .green => 1
  | .blue => 2
  | .alpha => 3

/-- A command other than CHAN, legal only when `sel` is 0 (30_encoding.md R55, condition 3). -/
def decodeNoSel (sel : BitVec 2) (i : Instr) : Except IllegalWord Instr :=
  if sel = 0 then .ok i else .error .selectorNotZero

/-- The decoder (30_encoding.md R53, R55, R58). Where more than one condition of R55 holds, the first of them in the order
zero field, opcode, selector is the name given (DESIGN CHOICE, log 16: all three take the same fault). -/
def decode (w : Word) : Except IllegalWord Instr :=
  if wordZero w ≠ 0 then .error .zeroFieldNotZero
  else
    match (wordOp w).toNat with
    | 0x1 => .ok (.chan (channelOfSel (wordSel w)))
    | 0x2 => decodeNoSel (wordSel w) .pack
    | 0x3 => decodeNoSel (wordSel w) .idx
    | 0x4 => decodeNoSel (wordSel w) .inb
    | 0x5 => decodeNoSel (wordSel w) .aclr
    | 0x6 => decodeNoSel (wordSel w) .aing
    | 0x7 => decodeNoSel (wordSel w) .aingi
    | 0x8 => decodeNoSel (wordSel w) .aavg
    | 0x9 => decodeNoSel (wordSel w) .squash
    | 0xA => decodeNoSel (wordSel w) .crot
    | 0xB => decodeNoSel (wordSel w) .blur
    | 0xC => decodeNoSel (wordSel w) .expand
    | _ => .error .reservedOpcode

/-- The decoder on a word of the opcode table: instructions are one 32-bit word, stored and carried as one number, so the
table's numbering of the bits is the word's own. -/
def decodeTableWord (_nbits w : Nat) : Option Instr :=
  if w < 4294967296 then
    match decode (BitVec.ofNat 32 w) with
    | .ok i => some i
    | .error _ => none
  else none

/-- A command word put together from its fields (30_encoding.md R52). -/
def commandWord (sel : BitVec 2) (op : BitVec 4) : Word := (0#26 ++ sel) ++ op

/-- The encoder: the command word of an instruction (30_encoding.md R53). -/
def encode : Instr → Word
  | .chan k => commandWord (selOfChannel k) 0x1
  | .pack   => commandWord 0 0x2
  | .idx    => commandWord 0 0x3
  | .inb    => commandWord 0 0x4
  | .aclr   => commandWord 0 0x5
  | .aing   => commandWord 0 0x6
  | .aingi  => commandWord 0 0x7
  | .aavg   => commandWord 0 0x8
  | .squash => commandWord 0 0x9
  | .crot   => commandWord 0 0xA
  | .blur   => commandWord 0 0xB
  | .expand => commandWord 0 0xC

end Sys2Proof
end

