-- ==== Sys2Proof/Config.lean ====
section
/-! DEFINITION. What an implementation fixes, the constants of 00_scope.md section 6, and the free values. -/

namespace Sys2Proof.Config

/-- COUNT_MAX, the largest count an averager may hold (00_scope.md R5). -/
def countMax : Nat := 16777216

/-- The largest value MAXPIX may take, 2^24 (00_scope.md R4). -/
def maxpixLimit : Nat := 16777216

/-- The value 00_scope.md R4 suggests for MAXPIX "where a concrete one is wanted", 2^20.
DESIGN CHOICE (log 3): only State.reset uses it, and no statement rests on it. -/
def maxpixSuggested : Nat := 1048576

/-- The FREE VALUE of a memory word that was never written since reset (10_state.md R23, 93_implementation_defined.md U2):
`unwritten e m n` is what the read of word `n` for destination pixel `m` returns when the model's epoch counter is `e`
(`m` is 0 where the read is not for a destination pixel). Each read has its own three numbers, so nothing makes two
reads agree. It has no body: nothing can be proved of its value (log 4). -/
opaque unwritten : Nat → Nat → Nat → Word

end Sys2Proof.Config
end

