-- ==== Sys2Proof/Machine/State.lean ====
section
/-! DEFINITION. The state of the block as plain data, the fault causes, and the state after reset (10_state.md). -/

namespace Sys2Proof.Machine

/-- A pixel memory: the words written since reset, each with its word index, indices strictly rising. The unit is the 32-bit
word, as 10_state.md R21 and 20_memory.md R40 say (log 6). An index that is not listed was never written since reset. -/
abbrev Memory := List (Nat × Word)

/-- The canonical form of a memory: indices strictly rising, so that equal memories are equal lists. A never-written word
reads as no particular value (10_state.md R23), so every written word is listed, whatever its value. -/
abbrev Memory.wf (m : Memory) : Prop := m.Pairwise (fun c d => c.1 < d.1)

/-- Every listed index is below `n`, the number of words the memory has (10_state.md R21). -/
abbrev Memory.below (n : Nat) (m : Memory) : Prop := ∀ c ∈ m, c.1 < n

/-- The causes of a fault (60_exceptions.md R102), NONE apart. -/
inductive Cause where
  | illegalCmd
  | badOperand
  | badCoord
  | badImage
  | badParam
  | dstOverflow
  | countOverflow
deriving DecidableEq, Repr

/-- Reasons for which the machine itself would stop with a fault. There is NONE: every fault of the block is a next state
(60_exceptions.md R104) and every undefined transaction is answered ERR (20_memory.md R36), so no step stops (DEDUCED, log 14; safe). -/
inductive Fault where
deriving DecidableEq, Repr

/-- Reasons for which the model refuses. -/
inductive Refusal where
  /-- Raised by no arm of exec: every command has its meaning. The name is the interface's, for an instruction with no
  meaning yet; safe. -/
  | notModelled (mnemonic : String)
deriving DecidableEq, Repr

/-- The state. The first group is the spec's (10_state.md, summary table), the second is the model's own. -/
structure State where
  /-- operand registers A0 to A3 (R10) -/
  a0 : Word
  a1 : Word
  a2 : Word
  a3 : Word
  /-- the result register RES (R11) -/
  res : Word
  /-- STATUS, bit 0 is FAULT (R14) -/
  status : Word
  /-- CAUSE, bits 2:0 are CODE (R15) -/
  cause : Word
  /-- FCMD (R15) -/
  fcmd : Word
  /-- the source descriptor SRC_W, SRC_H (R16) -/
  srcW : Word
  srcH : Word
  /-- the destination descriptor DST_W, DST_H (R16) -/
  dstW : Word
  dstH : Word
  /-- the host-visible averager SUM_R, SUM_G, SUM_B, SUM_A, COUNT (R20) -/
  sumR : Word
  sumG : Word
  sumB : Word
  sumA : Word
  count : Word
  /-- the SRC memory (R21) -/
  src : Memory
  /-- the DST memory (R21) -/
  dst : Memory
  /-- the parameter MAXPIX (00_scope.md R4), held here because `exec` has no other argument for it; no step changes it (log 3) -/
  maxpix : Nat
  /-- the counter the free values of unwritten words are applied to; every input taken advances it (log 5) -/
  epoch : Nat
  /-- what the world outside will do, oldest first (log 1) -/
  inputs : List Input
  /-- the responses given so far, oldest first (20_memory.md R31, log 2) -/
  responses : List Response
deriving DecidableEq, Repr

/-- The state after reset of a block whose memories have `n` words (10_state.md R23): every register 0, nothing written. -/
def State.resetWith (n : Nat) : State where
  a0 := 0
  a1 := 0
  a2 := 0
  a3 := 0
  res := 0
  status := 0
  cause := 0
  fcmd := 0
  srcW := 0
  srcH := 0
  dstW := 0
  dstH := 0
  sumR := 0
  sumG := 0
  sumB := 0
  sumA := 0
  count := 0
  src := []
  dst := []
  maxpix := n
  epoch := 0
  inputs := []
  responses := []

/-- The machine right after reset (10_state.md R23), with the MAXPIX that 00_scope.md R4 suggests (DESIGN CHOICE, log 3). -/
def State.reset : State := State.resetWith Config.maxpixSuggested

end Sys2Proof.Machine
end

