-- ==== Sys2Proof/Machine/Operands.lean ====
section
/-! DEFINITION. How a 32-bit register value is read as an operand (00_scope.md R6, 30_encoding.md R54). -/

namespace Sys2Proof.Machine

/-- `u(v)`, the unsigned value: widths, heights, squash factors, sums, counts (00_scope.md R6). -/
def u (v : Word) : Nat := v.toNat

/-- `s(v)`, the two's-complement value: rows, columns, the blur distance (00_scope.md R6). -/
def sgn (v : Word) : Int :=
  if v.getLsbD 31 then (v.toNat : Int) - 4294967296 else (v.toNat : Int)

/-- A non-negative integer stored into a 32-bit register. Every rule shows first that it fits (00_scope.md R6). -/
def toWord (n : Nat) : Word := BitVec.ofNat 32 n

end Sys2Proof.Machine
end

