-- ==== Sys2Proof/Machine/Flags.lean ====
section
/-! DEFINITION. The one flag of the hardware, STATUS.FAULT (10_state.md R14), the code of CAUSE (R15, 60_exceptions.md R102),
and the boolean result (41_mapper.md R68). There are no condition codes. -/

namespace Sys2Proof.Machine

/-- STATUS.FAULT = 1: the faulted state (60_exceptions.md R105). -/
def State.faulted (s : State) : Bool := s.status.getLsbD 0

/-- STATUS with FAULT set; the reserved bits keep what they hold (10_state.md R14, log 9). -/
def setFault (status : Word) : Word := status ||| 1#32

/-- CAUSE.CODE of a cause (60_exceptions.md R102). -/
def causeCode : Cause → Word
  | .illegalCmd    => 1
  | .badOperand    => 2
  | .badCoord      => 3
  | .badImage      => 4
  | .badParam      => 5
  | .dstOverflow   => 6
  | .countOverflow => 7

/-- A boolean as a value of RES: 1 for true, 0 for false (41_mapper.md R68). -/
def boolWord (b : Bool) : Word := if b then 1 else 0

end Sys2Proof.Machine
end

