-- ==== Sys2Proof/Machine/Memory.lean ====
section
/-! DEFINITION. Reading and writing one word of a pixel memory, and writing a whole image row by row (10_state.md R17, R21). -/

namespace Sys2Proof.Machine

/-- The word last written at index `n`, or none where nothing has been written since reset. -/
def Memory.read? : Memory → Nat → Option Word
  | [], _ => none
  | (a, v) :: m, n => if a = n then some v else Memory.read? m n

/-- `MemWrite(M, n, v)` (00_scope.md section 7.3). It keeps the indices rising. -/
def Memory.write : Memory → Nat → Word → Memory
  | [], n, v => [(n, v)]
  | (a, w) :: m, n, v =>
    if n < a then (n, v) :: (a, w) :: m
    else if n = a then (n, v) :: m
    else (a, w) :: Memory.write m n v

/-- The writes of a transform: for every row `i` of the image and every column `j`, word `i * w + j` is written with `px i j`
(10_state.md R17; the order cannot be observed, R22). -/
def Memory.writeImage (m : Memory) (w h : Nat) (px : Nat → Nat → Word) : Memory :=
  (List.range h).foldl
    (fun m i => (List.range w).foldl (fun m j => m.write (i * w + j) (px i j)) m) m

end Sys2Proof.Machine
end

