-- ==== Sys2Proof/Machine/Ops.lean ====
section
/-! DEFINITION. The operations the commands share: entering a fault and leaving it, the source image, reading SRC and DST,
writing the destination image. -/

namespace Sys2Proof.Machine

/-- Fault entry (60_exceptions.md R104): STATUS.FAULT <- 1, CAUSE <- the code, FCMD <- the command word, and nothing else. -/
def State.enterFault (s : State) (c : Cause) (w : Word) : State :=
  { s with status := setFault s.status, cause := causeCode c, fcmd := w }

/-- `raise Fault(code)` during the execution of command word `w` (60_exceptions.md R104): a next state. -/
def raiseFault (c : Cause) (w : Word) (s : State) : Host.Outcome State Fault Refusal :=
  .next (s.enterFault c w)

/-- The only exit from the faulted state (60_exceptions.md R108): the reset input (70_reset_and_hazards.md R120) puts every
register to 0 and loses both images, also where it abandons a command (log 7). What is not the block's stays: MAXPIX, the inputs still to come, the responses already
given, and the counter of the free values, which is not started again so that no earlier free value comes back (log 5, log 7). -/
def State.takeReset (s : State) : State :=
  { State.resetWith s.maxpix with epoch := s.epoch, inputs := s.inputs, responses := s.responses }

/-- The response of a transaction (20_memory.md R31). -/
def State.respond (s : State) (r : Response) : State :=
  { s with responses := s.responses ++ [r] }

/-- The value of a read: the word last written, or the free value of this read where nothing was written since reset
(10_state.md R23, 93_implementation_defined.md U2; log 4). -/
def wordOr (e m n : Nat) (v : Option Word) : Word :=
  v.getD (Config.unwritten e m n)

/-- `MemRead(SRC, n)`, read for destination pixel `m`. -/
def State.srcWord (s : State) (m n : Nat) : Word := wordOr s.epoch m n (s.src.read? n)

/-- `MemRead(DST, n)`; only the host reads DST (00_scope.md R9). -/
def State.dstWord (s : State) (n : Nat) : Word := wordOr s.epoch 0 n (s.dst.read? n)

/-- The source image is valid (10_state.md R18). -/
def State.srcValid (s : State) : Bool :=
  decide (1 ≤ u s.srcW ∧ 1 ≤ u s.srcH ∧ u s.srcW * u s.srcH ≤ s.maxpix)

/-- What a transform that does not fault does: it writes DST_W, DST_H and the words of the destination image
(20_memory.md R46). -/
def State.writeDestination (s : State) (w h : Nat) (px : Nat → Nat → Word) : State :=
  { s with dstW := toWord w, dstH := toWord h, dst := s.dst.writeImage w h px }

end Sys2Proof.Machine
end

