-- ==== Sys2Proof/Machine/Codec.lean ====
section
/-! DEFINITION. The pixel_rgba_codec sub-block: CHAN and PACK (40_codec.md). -/

namespace Sys2Proof.Machine

/-- The number `k` of a channel (30_encoding.md R51). -/
def channelNumber : Channel → Nat
  | .red => 0
  | .green => 1
  | .blue => 2
  | .alpha => 3

/-- `chan(p, k)` = (u(p) div 2^(24 - 8k)) mod 256 (40_codec.md R60). -/
def chan (p : Word) (k : Channel) : Nat :=
  u p / 2 ^ (24 - 8 * channelNumber k) % 256

/-- `pack(r, g, b, a)` (40_codec.md R61), for four numbers in 0..255. No rule applies it outside them; there it is the sum
modulo 2^32 (DESIGN CHOICE, log 12). -/
def pack (r g b a : Nat) : Word :=
  toWord (r * 16777216 + g * 65536 + b * 256 + a)

/-- CHAN (40_codec.md R62). -/
def execChan (k : Channel) (s : State) : Host.Outcome State Fault Refusal :=
  .next { s with res := toWord (chan s.a0 k) }

/-- PACK (40_codec.md R63). -/
def execPack (s : State) : Host.Outcome State Fault Refusal :=
  if u s.a0 > 255 ∨ u s.a1 > 255 ∨ u s.a2 > 255 ∨ u s.a3 > 255 then
    raiseFault .badOperand (encode .pack) s
  else
    .next { s with res := pack (u s.a0) (u s.a1) (u s.a2) (u s.a3) }

end Sys2Proof.Machine
end

