-- ==== Sys2Proof/Machine/Mapper.lean ====
section
/-! DEFINITION. The coordinate_mapper sub-block: IDX and INB (41_mapper.md). -/

namespace Sys2Proof.Machine

/-- `index(w, row, col)` = row * w + col, row-major (41_mapper.md R65). No rule evaluates it where that is negative (log 13). -/
def index (w : Nat) (row col : Int) : Nat := (row * (w : Int) + col).toNat

/-- `in_bounds(w, h, row, col)` (41_mapper.md R66): a comparison of mathematical integers. -/
def inBounds (w h : Nat) (row col : Int) : Bool :=
  decide (0 ≤ row ∧ row < (h : Int) ∧ 0 ≤ col ∧ col < (w : Int))

/-- IDX (41_mapper.md R67). -/
def execIdx (s : State) : Host.Outcome State Fault Refusal :=
  let w := u s.a0
  let row := sgn s.a1
  let col := sgn s.a2
  if w = 0 ∨ row < 0 ∨ col < 0 ∨ col ≥ (w : Int) then
    raiseFault .badCoord (encode .idx) s
  else if index w row col ≥ 4294967296 then
    raiseFault .badCoord (encode .idx) s
  else
    .next { s with res := toWord (index w row col) }

/-- INB (41_mapper.md R68). -/
def execInb (s : State) : Host.Outcome State Fault Refusal :=
  .next { s with res := boolWord (inBounds (u s.a0) (u s.a1) (sgn s.a2) (sgn s.a3)) }

end Sys2Proof.Machine
end

