-- ==== Sys2Proof/Machine/Averager.lean ====
section
/-! DEFINITION. The pixel_averager sub-block: ACLR, AING, AINGI, AAVG (42_averager.md), and the images it samples. -/

namespace Sys2Proof.Machine

/-- An averager value `(sr, sg, sb, sa, n)`, five non-negative integers (00_scope.md section 7.3). -/
structure Averager where
  sr : Nat
  sg : Nat
  sb : Nat
  sa : Nat
  n  : Nat
deriving DecidableEq, Repr

/-- An image as a transform sees it: a width, a height and the pixel at each linear index (10_state.md R17). -/
structure Image where
  w  : Nat
  h  : Nat
  px : Nat → Word

/-- `fresh` (42_averager.md R70). -/
def fresh : Averager := { sr := 0, sg := 0, sb := 0, sa := 0, n := 0 }

/-- `ingest(v, p)` (42_averager.md R70). -/
def ingest (v : Averager) (p : Word) : Averager where
  sr := v.sr + chan p .red
  sg := v.sg + chan p .green
  sb := v.sb + chan p .blue
  sa := v.sa + chan p .alpha
  n := v.n + 1

/-- `average(v)` (42_averager.md R71): truncating division, and the all-zero pixel for a count of zero. -/
def average (v : Averager) : Word :=
  if v.n = 0 then 0 else pack (v.sr / v.n) (v.sg / v.n) (v.sb / v.n) (v.sa / v.n)

/-- `ingest_from_image(v, img, row, col)` (42_averager.md R74): an out-of-bounds candidate is skipped. -/
def ingestFromImage (v : Averager) (img : Image) (row col : Int) : Averager :=
  if inBounds img.w img.h row col then ingest v (img.px (index img.w row col)) else v

/-- A private averager fed with a list of candidate coordinates, then averaged: the shape of every pixel of BLUR and EXPAND
(45_blur_engine.md R90, 46_bilinear_upsampler.md R95). -/
def averageOf (img : Image) (candidates : List (Int × Int)) : Word :=
  average (candidates.foldl (fun v c => ingestFromImage v img c.1 c.2) fresh)

/-- The source image as the transform reads it for destination pixel `m`; 0 where there is none (10_state.md R17). -/
def State.sourceImage (s : State) (m : Nat) : Image where
  w := u s.srcW
  h := u s.srcH
  px := s.srcWord m

/-- `AVG`, the host-visible averager (42_averager.md section 2). -/
def State.averager (s : State) : Averager where
  sr := u s.sumR
  sg := u s.sumG
  sb := u s.sumB
  sa := u s.sumA
  n := u s.count

/-- `AVG <- v` (42_averager.md section 2). Under the bounds of 10_state.md R20 nothing wraps (log 11). -/
def State.setAverager (s : State) (v : Averager) : State :=
  { s with sumR := toWord v.sr, sumG := toWord v.sg, sumB := toWord v.sb, sumA := toWord v.sa, count := toWord v.n }

/-- ACLR (42_averager.md R73). -/
def execAclr (s : State) : Host.Outcome State Fault Refusal :=
  .next (s.setAverager fresh)

/-- AING (42_averager.md R75). -/
def execAing (s : State) : Host.Outcome State Fault Refusal :=
  if u s.count = Config.countMax then raiseFault .countOverflow (encode .aing) s
  else .next (s.setAverager (ingest s.averager s.a0))

/-- AINGI (42_averager.md R76). -/
def execAingi (s : State) : Host.Outcome State Fault Refusal :=
  let row := sgn s.a0
  let col := sgn s.a1
  if !s.srcValid then raiseFault .badImage (encode .aingi) s
  else if inBounds (u s.srcW) (u s.srcH) row col then
    if u s.count = Config.countMax then raiseFault .countOverflow (encode .aingi) s
    else .next (s.setAverager (ingest s.averager (s.srcWord 0 (index (u s.srcW) row col))))
  else .next s

/-- AAVG (42_averager.md R77). -/
def execAavg (s : State) : Host.Outcome State Fault Refusal :=
  .next { s with res := average s.averager }

end Sys2Proof.Machine
end

