-- ==== Sys2Proof/Machine/BlurEngine.lean ====
section
/-! DEFINITION. The blur_engine sub-block: BLUR (45_blur_engine.md). -/

namespace Sys2Proof.Machine

/-- The indices of `max(0, c - d) .. min(n - 1, c + d)`: one side of the clipped window (45_blur_engine.md R92). -/
def window (n c d : Nat) : List Nat :=
  List.range' (c - d) (min (n - 1) (c + d) + 1 - (c - d))

/-- The candidates the engine visits: the clipped window only, which 45_blur_engine.md R93 leaves an implementation free to do
(log 10; Obligations.BlurWindowIsWholeNeighborhood states that nothing is lost). -/
def blurCandidates (w h i j d : Nat) : List (Int × Int) :=
  (window h i d).flatMap fun (r : Nat) => (window w j d).map fun (c : Nat) => ((r : Int), (c : Int))

/-- The offsets `-d .. d`, both included, ascending (45_blur_engine.md R90). -/
def offsets (d : Nat) : List Int := (List.range (2 * d + 1)).map fun (k : Nat) => (k : Int) - (d : Int)

/-- The neighborhood word for word as 45_blur_engine.md R90 has it: every `(i + dr, j + dc)` with `dr`, `dc` in `-d .. d`. -/
def blurNeighborhood (i j d : Nat) : List (Int × Int) :=
  (offsets d).flatMap fun dr => (offsets d).map fun dc => ((i : Int) + dr, (j : Int) + dc)

/-- `blur_px(i, j, d)` (45_blur_engine.md R90, over the clipped window). -/
def blurPx (img : Image) (i j d : Nat) : Word := averageOf img (blurCandidates img.w img.h i j d)

/-- BLUR (45_blur_engine.md R91). -/
def execBlur (s : State) : Host.Outcome State Fault Refusal :=
  if !s.srcValid then raiseFault .badImage (encode .blur) s
  else if sgn s.a0 < 0 then raiseFault .badParam (encode .blur) s
  else
    .next (s.writeDestination (u s.srcW) (u s.srcH) fun i j =>
      blurPx (s.sourceImage (i * u s.srcW + j)) i j (sgn s.a0).toNat)

end Sys2Proof.Machine
end

