-- ==== Sys2Proof/Machine/ChannelRotator.lean ====
section
/-! DEFINITION. The channel_rotator sub-block: CROT (44_channel_rotator.md). -/

namespace Sys2Proof.Machine

/-- `rot(p)` (44_channel_rotator.md R85): new red = old blue, new green = old red, new blue = old green, alpha unchanged. -/
def rot (p : Word) : Word := pack (chan p .blue) (chan p .red) (chan p .green) (chan p .alpha)

/-- CROT (44_channel_rotator.md R86). -/
def execCrot (s : State) : Host.Outcome State Fault Refusal :=
  if !s.srcValid then raiseFault .badImage (encode .crot) s
  else
    .next (s.writeDestination (u s.srcW) (u s.srcH) fun i j =>
      rot (s.srcWord (i * u s.srcW + j) (i * u s.srcW + j)))

end Sys2Proof.Machine
end

