-- ==== Sys2Proof/Machine/Downsampler.lean ====
section
/-! DEFINITION. The downsampler sub-block: SQUASH (43_downsampler.md). -/

namespace Sys2Proof.Machine

/-- The destination pixel at `(i, j)` is the source pixel at `(i * yf, j * xf)` (43_downsampler.md R81). -/
def squashPx (img : Image) (xf yf i j : Nat) : Word :=
  img.px (index img.w ((i * yf : Nat) : Int) ((j * xf : Nat) : Int))

/-- SQUASH (43_downsampler.md R82). -/
def execSquash (s : State) : Host.Outcome State Fault Refusal :=
  let xf := u s.a0
  let yf := u s.a1
  if !s.srcValid then raiseFault .badImage (encode .squash) s
  else if xf = 0 ∨ yf = 0 then raiseFault .badParam (encode .squash) s
  else
    let outW := u s.srcW / xf
    let outH := u s.srcH / yf
    .next (s.writeDestination outW outH fun i j => squashPx (s.sourceImage (i * outW + j)) xf yf i j)

end Sys2Proof.Machine
end

