-- ==== Sys2Proof/Machine/Upsampler.lean ====
section
/-! DEFINITION. The bilinear_upsampler sub-block: EXPAND (46_bilinear_upsampler.md). -/

namespace Sys2Proof.Machine

/-- `cand(i, j)` (46_bilinear_upsampler.md R95): chosen by the parity of `i` and of `j`. -/
def expandCandidates (i j : Nat) : List (Int × Int) :=
  let r : Int := ((i / 2 : Nat) : Int)
  let c : Int := ((j / 2 : Nat) : Int)
  if i % 2 = 0 then
    if j % 2 = 0 then [(r, c)] else [(r, c), (r, c + 1)]
  else
    if j % 2 = 0 then [(r, c), (r + 1, c)] else [(r, c), (r, c + 1), (r + 1, c), (r + 1, c + 1)]

/-- `expand_px(i, j)` (46_bilinear_upsampler.md R95). -/
def expandPx (img : Image) (i j : Nat) : Word := averageOf img (expandCandidates i j)

/-- EXPAND (46_bilinear_upsampler.md R96). -/
def execExpand (s : State) : Host.Outcome State Fault Refusal :=
  if !s.srcValid then raiseFault .badImage (encode .expand) s
  else if 4 * u s.srcW * u s.srcH > s.maxpix then raiseFault .dstOverflow (encode .expand) s
  else
    .next (s.writeDestination (2 * u s.srcW) (2 * u s.srcH) fun i j =>
      expandPx (s.sourceImage (i * (2 * u s.srcW) + j)) i j)

end Sys2Proof.Machine
end

