-- ==== Sys2Proof/Machine/Dispatch.lean ====
section
/-! DEFINITION. The execution of a command: one arm per constructor (30_encoding.md R58). -/

namespace Sys2Proof.Machine

def exec (i : Instr) (s : State) : Host.Outcome State Fault Refusal :=
  match i with
  | .chan k => Sys2Proof.Machine.execChan k s
  | .pack => Sys2Proof.Machine.execPack s
  | .idx => Sys2Proof.Machine.execIdx s
  | .inb => Sys2Proof.Machine.execInb s
  | .aclr => Sys2Proof.Machine.execAclr s
  | .aing => Sys2Proof.Machine.execAing s
  | .aingi => Sys2Proof.Machine.execAingi s
  | .aavg => Sys2Proof.Machine.execAavg s
  | .squash => Sys2Proof.Machine.execSquash s
  | .crot => Sys2Proof.Machine.execCrot s
  | .blur => Sys2Proof.Machine.execBlur s
  | .expand => Sys2Proof.Machine.execExpand s

end Sys2Proof.Machine
end

