-- ==== Sys2Proof/Machine/Port.lean ====
section
/-! DEFINITION. The host port: address map, access rights, and what a transaction does (20_memory.md). -/

namespace Sys2Proof.Machine

/-- The location of the register space at a word offset: the 18 rows of 20_memory.md R33. -/
def regAt (offset : Nat) : Option Reg :=
  match offset with
  | 0x00 => some .cmd
  | 0x01 => some .status
  | 0x02 => some .cause
  | 0x03 => some .fcmd
  | 0x04 => some .res
  | 0x08 => some .a0
  | 0x09 => some .a1
  | 0x0A => some .a2
  | 0x0B => some .a3
  | 0x0C => some .srcW
  | 0x0D => some .srcH
  | 0x0E => some .dstW
  | 0x0F => some .dstH
  | 0x10 => some .sumR
  | 0x11 => some .sumG
  | 0x12 => some .sumB
  | 0x13 => some .sumA
  | 0x14 => some .count
  | _ => none

/-- The word offset of a register, which is also its haddr (20_memory.md R33). -/
def regOffset : Reg → Nat
  | .cmd => 0x00
  | .status => 0x01
  | .cause => 0x02
  | .fcmd => 0x03
  | .res => 0x04
  | .a0 => 0x08
  | .a1 => 0x09
  | .a2 => 0x0A
  | .a3 => 0x0B
  | .srcW => 0x0C
  | .srcH => 0x0D
  | .dstW => 0x0E
  | .dstH => 0x0F
  | .sumR => 0x10
  | .sumG => 0x11
  | .sumB => 0x12
  | .sumA => 0x13
  | .count => 0x14

/-- What a host address names, where it names something. -/
inductive Location where
  | reg (r : Reg)
  | src (n : Nat)
  | dst (n : Nat)
deriving DecidableEq, Repr

/-- `haddr[31:30]`, the region (20_memory.md R32). -/
def haddrRegion (haddr : Word) : Nat := u haddr / 1073741824

/-- `haddr[29:0]`, the word offset in the region (20_memory.md R32). -/
def haddrOffset (haddr : Word) : Nat := u haddr % 1073741824

/-- The address map of a block with `maxpix` words in each memory (20_memory.md R32 to R35; none: R36, conditions 1 to 3). -/
def locate (maxpix : Nat) (haddr : Word) : Option Location :=
  match haddrRegion haddr with
  | 0 => (regAt (haddrOffset haddr)).map .reg
  | 1 => if haddrOffset haddr < maxpix then some (.src (haddrOffset haddr)) else none
  | 2 => if haddrOffset haddr < maxpix then some (.dst (haddrOffset haddr)) else none
  | _ => none

/-- The value of a register as the host reads it; none for CMD, which is write only (20_memory.md R33, R36 condition 5). -/
def State.readReg (s : State) : Reg → Option Word
  | .cmd => none
  | .status => some s.status
  | .cause => some s.cause
  | .fcmd => some s.fcmd
  | .res => some s.res
  | .a0 => some s.a0
  | .a1 => some s.a1
  | .a2 => some s.a2
  | .a3 => some s.a3
  | .srcW => some s.srcW
  | .srcH => some s.srcH
  | .dstW => some s.dstW
  | .dstH => some s.dstH
  | .sumR => some s.sumR
  | .sumG => some s.sumG
  | .sumB => some s.sumB
  | .sumA => some s.sumA
  | .count => some s.count

/-- A state that follows an outcome, where there is one: the same stop otherwise. -/
def thenDo (o : Host.Outcome State Fault Refusal) (f : State → State) : Host.Outcome State Fault Refusal :=
  match o with
  | .next s => .next (f s)
  | .fault r => .fault r
  | .refused r => .refused r

/-- The execution of command word `w` (30_encoding.md R58). -/
def runCommand (w : Word) (s : State) : Host.Outcome State Fault Refusal :=
  match decode w with
  | .ok i => exec i s
  | .error _ => raiseFault .illegalCmd w s

/-- A write to a register in the not-faulted state (20_memory.md R37): CMD executes its data, the six read-write registers
store it, and a read-only register answers ERR (R36, condition 4). -/
def writeReg (r : Reg) (data : Word) (s : State) : Host.Outcome State Fault Refusal :=
  match r with
  | .cmd => thenDo (runCommand data s) (·.respond .ok)
  | .a0 => .next ({ s with a0 := data }.respond .ok)
  | .a1 => .next ({ s with a1 := data }.respond .ok)
  | .a2 => .next ({ s with a2 := data }.respond .ok)
  | .a3 => .next ({ s with a3 := data }.respond .ok)
  | .srcW => .next ({ s with srcW := data }.respond .ok)
  | .srcH => .next ({ s with srcH := data }.respond .ok)
  | .status | .cause | .fcmd | .res | .dstW | .dstH | .sumR | .sumG | .sumB | .sumA | .count => .next (s.respond .err)

/-- `WR haddr, data` (20_memory.md R36, R37, R39). -/
def hostWrite (haddr data : Word) (s : State) : Host.Outcome State Fault Refusal :=
  if s.faulted then .next (s.respond .err)
  else
    match locate s.maxpix haddr with
    | none => .next (s.respond .err)
    | some (.reg r) => writeReg r data s
    | some (.src n) => .next ({ s with src := s.src.write n data }.respond .ok)
    | some (.dst n) => .next ({ s with dst := s.dst.write n data }.respond .ok)

/-- The value a read of `haddr` returns, or none where the read is not defined (20_memory.md R36, R38). -/
def State.readValue (s : State) (haddr : Word) : Option Word :=
  match locate s.maxpix haddr with
  | none => none
  | some (.reg r) => s.readReg r
  | some (.src n) => some (s.srcWord 0 n)
  | some (.dst n) => some (s.dstWord n)

/-- `RD haddr` (20_memory.md R36, R38), in the faulted state too. -/
def hostRead (haddr : Word) (s : State) : Host.Outcome State Fault Refusal :=
  match s.readValue haddr with
  | some v => .next (s.respond (.okValue v))
  | none => .next (s.respond .err)

/-- A host transaction (20_memory.md R30). -/
def transact (t : Txn) (s : State) : Host.Outcome State Fault Refusal :=
  match t with
  | .wr haddr data => hostWrite haddr data s
  | .rd haddr => hostRead haddr s

/-- The state in which the next input has been taken: `rest` is still to come, and the counter of the free values has
advanced, so that every read of an unwritten word has a value of its own (log 5). -/
def State.accept (s : State) (rest : List Input) : State :=
  { s with inputs := rest, epoch := s.epoch + 1 }

/-- The step over the next input. With none pending the block waits (70_reset_and_hazards.md R120; log 1). -/
def takeInput (s : State) : Host.Outcome State Fault Refusal :=
  match s.inputs with
  | [] => .next s
  | .transaction t :: rest => transact t (s.accept rest)
  | .reset :: rest => .next (s.accept rest).takeReset

/-- The host is about to write `w` to CMD (20_memory.md R37): the next input is that transaction. -/
def State.withCommand (s : State) (w : Word) : State :=
  { s with inputs := .transaction (.wr 0 w) :: s.inputs }

end Sys2Proof.Machine
end

