-- ==== Sys2Proof/Machine/Step.lean ====
section
/-! DEFINITION. The step function: one input of the host port or of the reset input (00_scope.md R3). -/

namespace Sys2Proof.Machine

/-- One step of the machine: the next input is taken and has its whole effect (20_memory.md R43). -/
def step (s : State) : Host.Outcome State Fault Refusal := takeInput s

/-- The state in which the very next step runs the instruction whose word is `w`: the block fetches nothing (10_state.md R13),
it executes what the host writes to CMD, so the write of `w` to CMD is put in front of the inputs (log 8). -/
def State.withFetchWord (s : State) (_nbits w : Nat) : State := s.withCommand (BitVec.ofNat 32 w)

end Sys2Proof.Machine
end

