-- ==== Sys2Proof/Machine/Script.lean ====
section
/-! DEFINITION. The assembler: script lines and pseudo-instructions as lists of host transactions (30_encoding.md R56, R57). -/

namespace Sys2Proof.Machine

/-- `<place>` of a script line (30_encoding.md R56). -/
inductive ScriptPlace where
  | reg (r : Reg)
  | src (n : Nat)
  | dst (n : Nat)
  | haddr (a : Word)
deriving DecidableEq, Repr

/-- A script line with its numbers read: the three lines of 30_encoding.md R56 and the eleven pseudo-instructions of R57. -/
inductive ScriptLine where
  | wr (p : ScriptPlace) (v : Word)
  | rd (p : ScriptPlace)
  | cmd (i : Instr)
  | cmdWord (w : Word)
  | chan (k : Channel) (px : Word)
  | pack (r g b a : Word)
  | idx (width row col : Word)
  | inb (width height row col : Word)
  | aing (px : Word)
  | aingi (row col : Word)
  | squash (xfac yfac : Word)
  | blur (dist : Word)
  | unpack (px : Word)
  | setSrc (w h : Word)
  | loadSrc (vs : List Word)
deriving DecidableEq, Repr

/-- The haddr of a place (30_encoding.md R56). -/
def placeAddress : ScriptPlace → Word
  | .reg r => toWord (regOffset r)
  | .src n => toWord (0x40000000 + n)
  | .dst n => toWord (0x80000000 + n)
  | .haddr a => a

/-- `WR <register>, v`. -/
def writeOf (r : Reg) (v : Word) : Txn := .wr (placeAddress (.reg r)) v

/-- `CMD <mnemonic>` (30_encoding.md R56). -/
def commandOf (i : Instr) : Txn := .wr 0 (encode i)

/-- `RD RES`. -/
def readRes : Txn := .rd (placeAddress (.reg .res))

/-- `WR SRC[n], v0 ; WR SRC[n+1], v1 ; ...` (30_encoding.md R57, LOADSRC). -/
def loadFrom : Nat → List Word → List Txn
  | _, [] => []
  | n, v :: vs => .wr (placeAddress (.src n)) v :: loadFrom (n + 1) vs

/-- The transactions of a line (30_encoding.md R56, R57): the operand writes in ascending order, then the command. -/
def expandLine : ScriptLine → List Txn
  | .wr p v => [.wr (placeAddress p) v]
  | .rd p => [.rd (placeAddress p)]
  | .cmd i => [commandOf i]
  | .cmdWord w => [.wr 0 w]
  | .chan k px => [writeOf .a0 px, commandOf (.chan k)]
  | .pack r g b a => [writeOf .a0 r, writeOf .a1 g, writeOf .a2 b, writeOf .a3 a, commandOf .pack]
  | .idx width row col => [writeOf .a0 width, writeOf .a1 row, writeOf .a2 col, commandOf .idx]
  | .inb width height row col =>
    [writeOf .a0 width, writeOf .a1 height, writeOf .a2 row, writeOf .a3 col, commandOf .inb]
  | .aing px => [writeOf .a0 px, commandOf .aing]
  | .aingi row col => [writeOf .a0 row, writeOf .a1 col, commandOf .aingi]
  | .squash xfac yfac => [writeOf .a0 xfac, writeOf .a1 yfac, commandOf .squash]
  | .blur dist => [writeOf .a0 dist, commandOf .blur]
  | .unpack px =>
    [writeOf .a0 px, commandOf (.chan .red), readRes, commandOf (.chan .green), readRes,
      commandOf (.chan .blue), readRes, commandOf (.chan .alpha), readRes]
  | .setSrc w h => [writeOf .srcW w, writeOf .srcH h]
  | .loadSrc vs => loadFrom 0 vs

/-- The value of a digit in base 10 or 16 (30_encoding.md R56). DESIGN CHOICE (log 18): R56 does not say which letters a
hexadecimal digit may use, so both cases are taken, nor whether the `_` grouping of 00_scope.md section 7.1 belongs to a script,
so `_` is no digit. -/
def digitValue (base : Nat) (c : Char) : Option Nat :=
  let n := c.toNat
  let v := if 48 ≤ n ∧ n ≤ 57 then n - 48
    else if 65 ≤ n ∧ n ≤ 70 then n - 55
    else if 97 ≤ n ∧ n ≤ 102 then n - 87
    else base
  if v < base then some v else none

/-- Digits in a base, most significant first, after a value `acc` already read. -/
def readDigits (base : Nat) : Nat → List Char → Option Nat
  | acc, [] => some acc
  | acc, c :: cs => (digitValue base c).bind fun v => readDigits base (acc * base + v) cs

/-- A number, decimal or `0x` hexadecimal (30_encoding.md R56). DESIGN CHOICE (log 18): the prefix is `0x` with a small x only,
at least one digit stands in a number, and leading zeros are taken. -/
def readNat : List Char → Option Nat
  | [] => none
  | '0' :: 'x' :: c :: cs => readDigits 16 0 (c :: cs)
  | c :: cs => readDigits 10 0 (c :: cs)

/-- A number that fits a 32-bit word. -/
def readWord (cs : List Char) : Option Word :=
  (readNat cs).bind fun n => if n < 4294967296 then some (toWord n) else none

/-- A signed operand: a number, or `-` and a number of at most 2^31, as its two's-complement word (30_encoding.md R57). -/
def readSigned : List Char → Option Word
  | '-' :: cs => (readNat cs).bind fun n => if n ≤ 2147483648 then some (toWord (4294967296 - n)) else none
  | cs => readWord cs

/-- The register names of 20_memory.md R33. -/
def registerNames : List (List Char × Reg) :=
  [("CMD".toList, .cmd), ("STATUS".toList, .status), ("CAUSE".toList, .cause), ("FCMD".toList, .fcmd),
    ("RES".toList, .res), ("A0".toList, .a0), ("A1".toList, .a1), ("A2".toList, .a2), ("A3".toList, .a3),
    ("SRC_W".toList, .srcW), ("SRC_H".toList, .srcH), ("DST_W".toList, .dstW), ("DST_H".toList, .dstH),
    ("SUM_R".toList, .sumR), ("SUM_G".toList, .sumG), ("SUM_B".toList, .sumB), ("SUM_A".toList, .sumA),
    ("COUNT".toList, .count)]

/-- The mnemonics of 30_encoding.md R56. -/
def mnemonics : List (List Char × Instr) :=
  [("CHAN.R".toList, .chan .red), ("CHAN.G".toList, .chan .green), ("CHAN.B".toList, .chan .blue),
    ("CHAN.A".toList, .chan .alpha), ("PACK".toList, .pack), ("IDX".toList, .idx), ("INB".toList, .inb),
    ("ACLR".toList, .aclr), ("AING".toList, .aing), ("AINGI".toList, .aingi), ("AAVG".toList, .aavg),
    ("SQUASH".toList, .squash), ("CROT".toList, .crot), ("BLUR".toList, .blur), ("EXPAND".toList, .expand)]

/-- `SRC[n]` and `DST[n]`: the number between the brackets, an offset below 2^30 (20_memory.md R32). -/
def readIndex (cs : List Char) : Option Nat :=
  if cs.getLast? = some ']' then
    (readNat cs.dropLast).bind fun n => if n < 1073741824 then some n else none
  else none

/-- `<place>` (30_encoding.md R56). -/
def readPlace (cs : List Char) : Option ScriptPlace :=
  match registerNames.lookup cs with
  | some r => some (.reg r)
  | none =>
    match cs with
    | 'S' :: 'R' :: 'C' :: '[' :: rest => (readIndex rest).map .src
    | 'D' :: 'S' :: 'T' :: '[' :: rest => (readIndex rest).map .dst
    | _ => (readWord cs).map .haddr

/-- Words of a line: runs of characters other than space, tab, carriage return and comma (log 18). -/
def splitTokens : List Char → List Char → List (List Char)
  | [], cur => if cur = [] then [] else [cur.reverse]
  | c :: cs, cur =>
    if c = ' ' ∨ c = '\t' ∨ c = '\r' ∨ c = ',' then
      if cur = [] then splitTokens cs [] else cur.reverse :: splitTokens cs []
    else splitTokens cs (c :: cur)

/-- The words of a line before its comment, which `;` starts (30_encoding.md R56). -/
def lineTokens (cs : List Char) : List (List Char) := splitTokens (cs.takeWhile (· ≠ ';')) []

/-- The pseudo-instruction of a command mnemonic with its operands (30_encoding.md R57). -/
def readPseudo (i : Instr) (args : List (List Char)) : Option ScriptLine :=
  match i, args with
  | .chan k, [x] => do return .chan k (← readWord x)
  | .pack, [r, g, b, a] => do return .pack (← readWord r) (← readWord g) (← readWord b) (← readWord a)
  | .idx, [w, r, c] => do return .idx (← readWord w) (← readSigned r) (← readSigned c)
  | .inb, [w, h, r, c] => do return .inb (← readWord w) (← readWord h) (← readSigned r) (← readSigned c)
  | .aing, [x] => do return .aing (← readWord x)
  | .aingi, [r, c] => do return .aingi (← readSigned r) (← readSigned c)
  | .squash, [x, y] => do return .squash (← readWord x) (← readWord y)
  | .blur, [d] => do return .blur (← readSigned d)
  | _, _ => none

/-- A line from its words; none where it is no line of the syntax. -/
def readLine (head : List Char) (args : List (List Char)) : Option ScriptLine :=
  if head = "WR".toList then
    match args with
    | [p, v] => do return .wr (← readPlace p) (← readWord v)
    | _ => none
  else if head = "RD".toList then
    match args with
    | [p] => do return .rd (← readPlace p)
    | _ => none
  else if head = "CMD".toList then
    match args with
    | [m] =>
      match mnemonics.lookup m with
      | some i => some (.cmd i)
      | none => (readWord m).map .cmdWord
    | _ => none
  else if head = "UNPACK".toList then
    match args with
    | [x] => do return .unpack (← readWord x)
    | _ => none
  else if head = "SETSRC".toList then
    match args with
    | [w, h] => do return .setSrc (← readWord w) (← readWord h)
    | _ => none
  else if head = "LOADSRC".toList then
    if args = [] then none else (args.mapM readWord).map .loadSrc
  else (mnemonics.lookup head).bind fun i => readPseudo i args

/-- The transactions of one line of text (30_encoding.md R56, R57); none where the line is no line of the syntax.
DESIGN CHOICE (log 18): R56 says one transaction per line and is silent on a line that is empty, or holds only blanks or only a
comment; such a line is accepted and has no transaction. -/
def assembleLine (cs : List Char) : Option (List Txn) :=
  match lineTokens cs with
  | [] => some []
  | head :: args => (readLine head args).map expandLine

/-- A script: its lines in order (30_encoding.md R56). DESIGN CHOICE (log 18): one line that is no line of the syntax makes the
whole script none. -/
def assemble : List (List Char) → Option (List Txn)
  | [] => some []
  | l :: ls => do return (← assembleLine l) ++ (← assemble ls)

/-- A run of a script from a state: its transactions are the next inputs (00_scope.md section 5). -/
def State.withScript (s : State) (ts : List Txn) : State :=
  { s with inputs := ts.map .transaction ++ s.inputs }

end Sys2Proof.Machine
end

