-- ==== Sys2Proof/Safety.lean ====
section
/-! DEFINITION. The invariant of the block's state, and what counts as a safe run. -/

namespace Sys2Proof.Machine

/-- The bounds of the host-visible averager, which 10_state.md R20 says hold at all times. -/
structure State.AveragerBounds (s : State) : Prop where
  count_le : u s.count ≤ Config.countMax
  sumR_le : u s.sumR ≤ 255 * u s.count
  sumG_le : u s.sumG ≤ 255 * u s.count
  sumB_le : u s.sumB ≤ 255 * u s.count
  sumA_le : u s.sumA ≤ 255 * u s.count

/-- STATUS, CAUSE and FCMD agree: the reserved bits read 0, FAULT is 1 exactly when a cause is recorded, and with no fault
taken since reset FCMD is 0 (10_state.md R14, R15). -/
structure State.FaultRegisters (s : State) : Prop where
  status_bits : s.status = 0 ∨ s.status = 1
  cause_le : u s.cause ≤ 7
  faulted_iff : s.faulted = true ↔ s.cause ≠ 0
  fcmd_zero : s.faulted = false → s.fcmd = 0

/-- Both memories are in canonical form and hold words of the memory only (10_state.md R21). -/
structure State.MemoriesFit (s : State) : Prop where
  src_wf : s.src.wf
  src_below : s.src.below s.maxpix
  dst_wf : s.dst.wf
  dst_below : s.dst.below s.maxpix

/-- The invariant of the state that every run from reset keeps. -/
structure State.Inv (s : State) : Prop where
  /-- 00_scope.md R4 -/
  maxpix_pos : 1 ≤ s.maxpix
  maxpix_le : s.maxpix ≤ Config.maxpixLimit
  averager : s.AveragerBounds
  faultRegs : s.FaultRegisters
  memories : s.MemoriesFit
  /-- the destination image lies in the DST memory (10_state.md R17) -/
  dst_fits : u s.dstW * u s.dstH ≤ s.maxpix

/-- A state is safe when the engine is not faulted: a run that reaches a faulted state "has gone wrong", and the FAULT bit is
never cleared by a later step but reset (60_exceptions.md R105). -/
def State.safe (s : State) : Prop := s.Inv ∧ s.faulted = false

/-- A command completes with its own effect: the machine goes on, not faulted (60_exceptions.md R101). -/
def completes (i : Instr) (s : State) : Prop := ∃ t, exec i s = .next t ∧ t.faulted = false

end Sys2Proof.Machine
end

