-- ==== Sys2Proof/WellFormed.lean ====
section
/-! DEFINITION. Well-formedness of the fields of a command word, and of an instruction. -/

namespace Sys2Proof

/-- The first reason of 30_encoding.md R55 that holds of the fields, if one does. -/
def CommandFields.illegal (f : CommandFields) : Option IllegalWord :=
  if f.zero ≠ 0 then some .zeroFieldNotZero
  else if f.op = 0x0 ∨ f.op = 0xD ∨ f.op = 0xE ∨ f.op = 0xF then some .reservedOpcode
  else if f.op ≠ 0x1 ∧ f.sel ≠ 0 then some .selectorNotZero
  else none

/-- The fields are those of a legal command word: no condition of 30_encoding.md R55 holds. -/
def CommandFields.wellFormed (f : CommandFields) : Bool := f.illegal.isNone

/-- The fields that 30_encoding.md R52 and R53 give a command. -/
def Instr.fields : Instr → CommandFields
  | .chan .red   => { zero := 0, sel := 0, op := 0x1 }
  | .chan .green => { zero := 0, sel := 1, op := 0x1 }
  | .chan .blue  => { zero := 0, sel := 2, op := 0x1 }
  | .chan .alpha => { zero := 0, sel := 3, op := 0x1 }
  | .pack   => { zero := 0, sel := 0, op := 0x2 }
  | .idx    => { zero := 0, sel := 0, op := 0x3 }
  | .inb    => { zero := 0, sel := 0, op := 0x4 }
  | .aclr   => { zero := 0, sel := 0, op := 0x5 }
  | .aing   => { zero := 0, sel := 0, op := 0x6 }
  | .aingi  => { zero := 0, sel := 0, op := 0x7 }
  | .aavg   => { zero := 0, sel := 0, op := 0x8 }
  | .squash => { zero := 0, sel := 0, op := 0x9 }
  | .crot   => { zero := 0, sel := 0, op := 0xA }
  | .blur   => { zero := 0, sel := 0, op := 0xB }
  | .expand => { zero := 0, sel := 0, op := 0xC }

/-- An instruction is well formed when its fields are. The type `Channel` leaves no illegal selector to write, so every
instruction is (Sys2Proof/Laws/PerInstr.lean proves it constructor by constructor). -/
def Instr.wellFormed (i : Instr) : Bool := i.fields.wellFormed

end Sys2Proof
end

