-- ==== Sys2Proof/Certificates/Slice0/Obligations.lean ====
section
/-! DEFINITION. The statements about the model, in the order of OBLIGATIONS.json. They state and never prove. -/

open Sys2Proof Sys2Proof.Machine

namespace Sys2Proof.Statements

/-- The faulted state that `raise Fault(code)` enters while command word `w` executes, written out from 60_exceptions.md R104. -/
def faultedWith (s : State) (code w : Word) : State :=
  { s with status := s.status ||| 1#32, cause := code, fcmd := w }

/-- The source image is valid, written out from 10_state.md R18. -/
def validSource (s : State) : Prop :=
  1 ≤ s.srcW.toNat ∧ 1 ≤ s.srcH.toNat ∧ s.srcW.toNat * s.srcH.toNat ≤ s.maxpix

/-- `S` is a reading of the SRC memory: it has the written words, and any value where nothing was written (10_state.md R23). -/
def readsSource (s : State) (S : Nat → Word) : Prop := ∀ n v, s.src.read? n = some v → S n = v

/-- The 17 readable registers with their word offsets (20_memory.md R33). -/
def readableRegisters (s : State) : List (Nat × Word) :=
  [(0x01, s.status), (0x02, s.cause), (0x03, s.fcmd), (0x04, s.res),
    (0x08, s.a0), (0x09, s.a1), (0x0A, s.a2), (0x0B, s.a3),
    (0x0C, s.srcW), (0x0D, s.srcH), (0x0E, s.dstW), (0x0F, s.dstH),
    (0x10, s.sumR), (0x11, s.sumG), (0x12, s.sumB), (0x13, s.sumA), (0x14, s.count)]

/-- A transaction is not defined: the five conditions of 20_memory.md R36, on the numbers `haddr[31:30]` and `haddr[29:0]`. -/
def undefinedAddress (maxpix : Nat) (haddr : Word) : Prop :=
  haddr.toNat / 2 ^ 30 = 3 ∨
  ((haddr.toNat / 2 ^ 30 = 1 ∨ haddr.toNat / 2 ^ 30 = 2) ∧ maxpix ≤ haddr.toNat % 2 ^ 30) ∨
  (haddr.toNat / 2 ^ 30 = 0 ∧ haddr.toNat % 2 ^ 30 ∉
    [0x00, 0x01, 0x02, 0x03, 0x04, 0x08, 0x09, 0x0A, 0x0B, 0x0C, 0x0D, 0x0E, 0x0F, 0x10, 0x11, 0x12, 0x13, 0x14])

/-- 20_memory.md R36 for a transaction. -/
def notDefined (maxpix : Nat) : Txn → Prop
  | .wr haddr _ => undefinedAddress maxpix haddr ∨
      haddr.toNat ∈ [0x01, 0x02, 0x03, 0x04, 0x0E, 0x0F, 0x10, 0x11, 0x12, 0x13, 0x14]
  | .rd haddr => undefinedAddress maxpix haddr ∨ haddr.toNat = 0

/-- The state in which the next input has been taken and `r` has been answered, with no other change. That taking it advances
the epoch is the model's own bookkeeping of free values (log 5), as are the two lists (log 1, log 2). -/
def answered (s : State) (rest : List Input) (r : Response) : State :=
  { s with inputs := rest, epoch := s.epoch + 1, responses := s.responses ++ [r] }

/-- Every defined read answers the current value, with no other change (20_memory.md R38): the registers, the written words
of both memories, and some value for a word never written since reset. -/
def definedReadsAnswer (s : State) (rest : List Input) : Prop :=
  (∀ p ∈ readableRegisters s, s.inputs = .transaction (.rd (BitVec.ofNat 32 p.1)) :: rest →
    step s = .next (answered s rest (.okValue p.2))) ∧
  (∀ n, n < s.maxpix → n < 2 ^ 30 → s.inputs = .transaction (.rd (BitVec.ofNat 32 (0x40000000 + n))) :: rest →
    ∃ v, step s = .next (answered s rest (.okValue v)) ∧ ∀ x, s.src.read? n = some x → v = x) ∧
  (∀ n, n < s.maxpix → n < 2 ^ 30 → s.inputs = .transaction (.rd (BitVec.ofNat 32 (0x80000000 + n))) :: rest →
    ∃ v, step s = .next (answered s rest (.okValue v)) ∧ ∀ x, s.dst.read? n = some x → v = x)

/-- Every register is 0 and no word of either memory is written, which is how the model says that its content is unspecified
(10_state.md R23; log 4). -/
def isResetState (t : State) : Prop :=
  (t.a0 = 0 ∧ t.a1 = 0 ∧ t.a2 = 0 ∧ t.a3 = 0 ∧ t.res = 0) ∧
  (t.status = 0 ∧ t.cause = 0 ∧ t.fcmd = 0) ∧
  (t.srcW = 0 ∧ t.srcH = 0 ∧ t.dstW = 0 ∧ t.dstH = 0) ∧
  (t.sumR = 0 ∧ t.sumG = 0 ∧ t.sumB = 0 ∧ t.sumA = 0 ∧ t.count = 0) ∧
  ∀ n, t.src.read? n = none ∧ t.dst.read? n = none

/-- What one ingestion of pixel `p` does to the host-visible averager, on mathematical integers, and that nothing else of the
state changes (42_averager.md R70). -/
def ingested (s t : State) (p : Word) : Prop :=
  t = { s with sumR := t.sumR, sumG := t.sumG, sumB := t.sumB, sumA := t.sumA, count := t.count } ∧
  t.sumR.toNat = s.sumR.toNat + p.toNat / 2 ^ 24 % 256 ∧
  t.sumG.toNat = s.sumG.toNat + p.toNat / 2 ^ 16 % 256 ∧
  t.sumB.toNat = s.sumB.toNat + p.toNat / 2 ^ 8 % 256 ∧
  t.sumA.toNat = s.sumA.toNat + p.toNat % 256 ∧
  t.count.toNat = s.count.toNat + 1

/-- The frame of a transform: only DST_W, DST_H, which are `w` and `h`, and the words of DST below `w * h` (20_memory.md R46). -/
def onlyDestination (s t : State) (w h : Nat) : Prop :=
  t = { s with dstW := BitVec.ofNat 32 w, dstH := BitVec.ofNat 32 h, dst := t.dst } ∧
  ∀ a, w * h ≤ a → t.dst.read? a = s.dst.read? a

/-- The causes a command may raise: the rows of 60_exceptions.md R103. -/
def mayRaise : Instr → List Word
  | .chan _ => []
  | .pack => [2]
  | .idx => [3]
  | .inb => []
  | .aclr => []
  | .aing => [7]
  | .aingi => [4, 7]
  | .aavg => []
  | .squash => [4, 5]
  | .crot => [4]
  | .blur => [4, 5]
  | .expand => [4, 6]

/-- The preconditions of a command (60_exceptions.md R102, read the other way round). -/
def precondition (s : State) : Instr → Prop
  | .chan _ | .inb | .aclr | .aavg => True
  | .pack => s.a0.toNat ≤ 255 ∧ s.a1.toNat ≤ 255 ∧ s.a2.toNat ≤ 255 ∧ s.a3.toNat ≤ 255
  | .idx => 1 ≤ s.a0.toNat ∧ 0 ≤ s.a1.toInt ∧ 0 ≤ s.a2.toInt ∧ s.a2.toInt < (s.a0.toNat : Int) ∧
      s.a1.toInt * (s.a0.toNat : Int) + s.a2.toInt < 2 ^ 32
  | .aing => s.count.toNat ≠ 2 ^ 24
  | .aingi => validSource s ∧ (s.count.toNat = 2 ^ 24 →
      ¬ (0 ≤ s.a0.toInt ∧ s.a0.toInt < (s.srcH.toNat : Int) ∧ 0 ≤ s.a1.toInt ∧ s.a1.toInt < (s.srcW.toNat : Int)))
  | .squash => validSource s ∧ 1 ≤ s.a0.toNat ∧ 1 ≤ s.a1.toNat
  | .crot => validSource s
  | .blur => validSource s ∧ 0 ≤ s.a0.toInt
  | .expand => validSource s ∧ 4 * s.srcW.toNat * s.srcH.toNat ≤ s.maxpix

/-- The command a step executes: the next input is a write to CMD of a legal word in the not-faulted state
(20_memory.md R37, R39). -/
def runs (s : State) (i : Instr) : Prop :=
  ∃ rest w, s.inputs = .transaction (.wr 0 w) :: rest ∧ decode w = .ok i ∧ s.faulted = false

/-- The next input is an assertion of the reset input. -/
def resetNext (s : State) : Prop := ∃ rest, s.inputs = .reset :: rest

end Sys2Proof.Statements

open Sys2Proof.Statements

-- Encoding

/-- Decoding an encoded well-formed instruction gives it back, and a word that decodes is the encoding of what it decodes to:
each of the legal words has one meaning, each instruction one word (30_encoding.md sections 2 and 3). -/
def Obligations.DecodeAndEncodeAgree : Prop :=
  (∀ i : Instr, i.wellFormed = true → decode (encode i) = .ok i) ∧
  (∀ (w : Word) (i : Instr), decode w = .ok i → encode i = w)

/-- Words written out from the opcode map (30_encoding.md R53) decode to their commands; a sanity check. -/
def Obligations.OpcodeWordsDecode : Prop :=
  decode 0x00000001#32 = .ok (.chan .red) ∧ decode 0x00000011#32 = .ok (.chan .green) ∧
  decode 0x00000021#32 = .ok (.chan .blue) ∧ decode 0x00000031#32 = .ok (.chan .alpha) ∧
  decode 0x00000004#32 = .ok .inb ∧ decode 0x00000008#32 = .ok .aavg ∧ decode 0x0000000C#32 = .ok .expand

/-- 30_encoding.md R53: a word is the command of a row exactly when `w & mask = match`, for the twelve rows,
and CHAN is four words, one for each channel. -/
def Obligations.OpcodeMapMatchesRows : Prop :=
  ∀ w : Word,
    ((w &&& 0xFFFFFFCF#32 = 0x00000001#32) ↔ ∃ k, decode w = .ok (.chan k)) ∧
    ((w &&& 0xFFFFFFFF#32 = 0x00000002#32) ↔ decode w = .ok .pack) ∧
    ((w &&& 0xFFFFFFFF#32 = 0x00000003#32) ↔ decode w = .ok .idx) ∧
    ((w &&& 0xFFFFFFFF#32 = 0x00000004#32) ↔ decode w = .ok .inb) ∧
    ((w &&& 0xFFFFFFFF#32 = 0x00000005#32) ↔ decode w = .ok .aclr) ∧
    ((w &&& 0xFFFFFFFF#32 = 0x00000006#32) ↔ decode w = .ok .aing) ∧
    ((w &&& 0xFFFFFFFF#32 = 0x00000007#32) ↔ decode w = .ok .aingi) ∧
    ((w &&& 0xFFFFFFFF#32 = 0x00000008#32) ↔ decode w = .ok .aavg) ∧
    ((w &&& 0xFFFFFFFF#32 = 0x00000009#32) ↔ decode w = .ok .squash) ∧
    ((w &&& 0xFFFFFFFF#32 = 0x0000000A#32) ↔ decode w = .ok .crot) ∧
    ((w &&& 0xFFFFFFFF#32 = 0x0000000B#32) ↔ decode w = .ok .blur) ∧
    ((w &&& 0xFFFFFFFF#32 = 0x0000000C#32) ↔ decode w = .ok .expand) ∧
    (w = 0x01#32 ↔ decode w = .ok (.chan .red)) ∧ (w = 0x11#32 ↔ decode w = .ok (.chan .green)) ∧
    (w = 0x21#32 ↔ decode w = .ok (.chan .blue)) ∧ (w = 0x31#32 ↔ decode w = .ok (.chan .alpha))

/-- 30_encoding.md R55: the decoder rejects exactly the words for which one of the three conditions holds, those are all but
the fifteen legal words, and executing one raises ILLEGAL_CMD. -/
def Obligations.IllegalWordsFault : Prop :=
  ∀ w : Word,
    ((∃ e, decode w = .error e) ↔
      (w.toNat / 64 ≠ 0 ∨ w.toNat % 16 ∈ [0x0, 0xD, 0xE, 0xF] ∨ (w.toNat % 16 ≠ 1 ∧ w.toNat / 16 % 4 ≠ 0))) ∧
    ((∃ e, decode w = .error e) ↔
      w.toNat ∉ [0x01, 0x11, 0x21, 0x31, 0x02, 0x03, 0x04, 0x05, 0x06, 0x07, 0x08, 0x09, 0x0A, 0x0B, 0x0C]) ∧
    (∀ s rest, (∃ e, decode w = .error e) → s.faulted = false → s.inputs = .transaction (.wr 0 w) :: rest →
      step s = .next (answered (faultedWith s 1 w) rest .ok))

/-- 30_encoding.md R57: the pseudo-instructions are the writes of the operand registers in ascending order, then the command. -/
def Obligations.PseudoInstructionsExpand : Prop :=
  ∀ a b c d : Word,
    expandLine (.chan .red a) = [.wr 8 a, .wr 0 0x01] ∧ expandLine (.chan .green a) = [.wr 8 a, .wr 0 0x11] ∧
    expandLine (.chan .blue a) = [.wr 8 a, .wr 0 0x21] ∧ expandLine (.chan .alpha a) = [.wr 8 a, .wr 0 0x31] ∧
    expandLine (.pack a b c d) = [.wr 8 a, .wr 9 b, .wr 10 c, .wr 11 d, .wr 0 0x02] ∧
    expandLine (.idx a b c) = [.wr 8 a, .wr 9 b, .wr 10 c, .wr 0 0x03] ∧
    expandLine (.inb a b c d) = [.wr 8 a, .wr 9 b, .wr 10 c, .wr 11 d, .wr 0 0x04] ∧
    expandLine (.aing a) = [.wr 8 a, .wr 0 0x06] ∧
    expandLine (.aingi a b) = [.wr 8 a, .wr 9 b, .wr 0 0x07] ∧
    expandLine (.squash a b) = [.wr 8 a, .wr 9 b, .wr 0 0x09] ∧
    expandLine (.blur a) = [.wr 8 a, .wr 0 0x0B] ∧
    expandLine (.unpack a) =
      [.wr 8 a, .wr 0 0x01, .rd 4, .wr 0 0x11, .rd 4, .wr 0 0x21, .rd 4, .wr 0 0x31, .rd 4] ∧
    expandLine (.setSrc a b) = [.wr 12 a, .wr 13 b] ∧
    ∀ (vs : List Word) (n : Nat) (v : Word), vs[n]? = some v →
      (expandLine (.loadSrc vs))[n]? = some (.wr (BitVec.ofNat 32 (0x40000000 + n)) v) ∧
      (expandLine (.loadSrc vs)).length = vs.length

-- The host port and the step

/-- A step runs the decoded command: when the next input writes a word that decodes to `i` to CMD and the engine is not
faulted, the step is `exec i` at the state in which the input has been taken, and then the response OK. -/
def Obligations.StepRunsDecodedCommand : Prop :=
  ∀ (s : State) (rest : List Input) (w : Word) (i : Instr),
    s.inputs = .transaction (.wr 0 w) :: rest → s.faulted = false → decode w = .ok i →
    ∃ t, exec i { s with inputs := rest, epoch := s.epoch + 1 } = .next t ∧
      step s = .next { t with responses := t.responses ++ [.ok] }

/-- Every step answers a next state: the block never stops (every transaction is responded to, every command terminates). -/
def Obligations.EveryStepAnswersNext : Prop :=
  ∀ s : State, ∃ t, step s = .next t

/-- 20_memory.md R31: every transaction gets exactly one response: ERR exactly when it is not defined or is a write in the
faulted state, and then nothing else changes; OK(v) for a defined read; OK for a defined write, also where the command faults. -/
def Obligations.EveryTransactionGetsOneResponse : Prop :=
  ∀ (s : State) (t : Txn) (rest : List Input), s.inputs = .transaction t :: rest →
    ∃ s' r, step s = .next s' ∧ s'.responses = s.responses ++ [r] ∧ s'.inputs = rest ∧
      (r = .err ↔ notDefined s.maxpix t ∨ (s.faulted = true ∧ ∃ a d, t = .wr a d)) ∧
      (r = .err → s' = answered s rest .err) ∧
      (∀ a, t = .rd a → r = .err ∨ ∃ v, r = .okValue v) ∧
      (∀ a d, t = .wr a d → r = .err ∨ r = .ok)

/-- 20_memory.md R36: a transaction that is not defined gets ERR and changes nothing. -/
def Obligations.UndefinedTransactionChangesNothing : Prop :=
  ∀ (s : State) (t : Txn) (rest : List Input), s.inputs = .transaction t :: rest → notDefined s.maxpix t →
    step s = .next (answered s rest .err)

/-- 20_memory.md R37: a defined write in the not-faulted state stores every bit of its data at its location and nothing else,
or, to CMD, executes its data as a command word (30_encoding.md R58) and answers OK, also where the command faults. -/
def Obligations.DefinedWritesStore : Prop :=
  ∀ (s : State) (rest : List Input) (a data : Word),
    s.inputs = .transaction (.wr a data) :: rest → s.faulted = false →
    (a = 0x08 → step s = .next (answered { s with a0 := data } rest .ok)) ∧
    (a = 0x09 → step s = .next (answered { s with a1 := data } rest .ok)) ∧
    (a = 0x0A → step s = .next (answered { s with a2 := data } rest .ok)) ∧
    (a = 0x0B → step s = .next (answered { s with a3 := data } rest .ok)) ∧
    (a = 0x0C → step s = .next (answered { s with srcW := data } rest .ok)) ∧
    (a = 0x0D → step s = .next (answered { s with srcH := data } rest .ok)) ∧
    (∀ n, n < s.maxpix → n < 2 ^ 30 → a.toNat = 0x40000000 + n →
      ∃ m : Memory, step s = .next (answered { s with src := m } rest .ok) ∧
        ∀ k, m.read? k = if k = n then some data else s.src.read? k) ∧
    (∀ n, n < s.maxpix → n < 2 ^ 30 → a.toNat = 0x80000000 + n →
      ∃ m : Memory, step s = .next (answered { s with dst := m } rest .ok) ∧
        ∀ k, m.read? k = if k = n then some data else s.dst.read? k) ∧
    (a = 0 → ∀ i, decode data = .ok i → ∃ t, exec i { s with inputs := rest, epoch := s.epoch + 1 } = .next t ∧
      step s = .next { t with responses := t.responses ++ [.ok] }) ∧
    (a = 0 → ∀ e, decode data = .error e → step s = .next (answered (faultedWith s 1 data) rest .ok))

/-- 20_memory.md R38: a defined read, in the faulted state or not, answers the current value and changes nothing. -/
def Obligations.DefinedReadsAnswerCurrentValue : Prop :=
  ∀ (s : State) (rest : List Input), definedReadsAnswer s rest

/-- 20_memory.md R39: in the faulted state every write, to any address, gets ERR and changes nothing, and every defined read
works as in R38. -/
def Obligations.FaultedStateRefusesEveryWrite : Prop :=
  ∀ (s : State) (rest : List Input), s.faulted = true →
    (∀ a data, s.inputs = .transaction (.wr a data) :: rest → step s = .next (answered s rest .err)) ∧
    definedReadsAnswer s rest

/-- 20_memory.md R43, on two transactions: a read returns the value the write just before it stored, in SRC and in DST,
and DST does not see a write to SRC. -/
def Obligations.WrittenWordReadsBack : Prop :=
  ∀ (s t t' : State) (rest : List Input) (n : Nat) (v : Word), s.faulted = false → n < s.maxpix → n < 2 ^ 30 →
    (s.inputs = .transaction (.wr (BitVec.ofNat 32 (0x40000000 + n)) v) ::
        .transaction (.rd (BitVec.ofNat 32 (0x40000000 + n))) :: rest →
      step s = .next t → step t = .next t' →
      t'.responses = s.responses ++ [.ok, .okValue v] ∧ t'.dst = s.dst) ∧
    (s.inputs = .transaction (.wr (BitVec.ofNat 32 (0x80000000 + n)) v) ::
        .transaction (.rd (BitVec.ofNat 32 (0x80000000 + n))) :: rest →
      step s = .next t → step t = .next t' →
      t'.responses = s.responses ++ [.ok, .okValue v] ∧ t'.src = s.src)

-- Reset and the invariant

/-- 10_state.md R23, for memories of any size: the state after reset. -/
def Obligations.ResetStateIsAsSpecified : Prop :=
  (∀ n, isResetState (State.resetWith n)) ∧ isResetState State.reset

/-- 70_reset_and_hazards.md R120: the reset input gives the reset state, from every state, faulted or not. The model's own
choice (log 7): the reset answers no response, and the inputs to come, the responses given and MAXPIX stay. -/
def Obligations.ResetInputGivesResetState : Prop :=
  ∀ (s : State) (rest : List Input), s.inputs = .reset :: rest →
    ∃ t, step s = .next t ∧ isResetState t ∧ t.faulted = false ∧
      t.inputs = rest ∧ t.responses = s.responses ∧ t.maxpix = s.maxpix

/-- The invariant holds at reset, whatever MAXPIX 00_scope.md R4 allows. -/
def Obligations.InvariantHoldsAtReset : Prop :=
  (∀ n, 1 ≤ n → n ≤ 2 ^ 24 → (State.resetWith n).Inv) ∧ State.reset.Inv

/-- Every step keeps the invariant: MAXPIX in its range, the bounds of the averager (10_state.md R20), STATUS, CAUSE and FCMD
in agreement (R14, R15), both memories in canonical form and inside their size (R21), the destination image inside DST (R17). -/
def Obligations.InvariantKeptByEveryStep : Prop :=
  ∀ s t : State, s.Inv → step s = .next t → t.Inv

/-- 60_exceptions.md R108: nothing but the reset input leaves the faulted state; until then a step changes nothing of the
block's state, so CAUSE and FCMD keep the first fault; and the reset input does leave it,
to the reset state. -/
def Obligations.OnlyResetLeavesTheFaultedState : Prop :=
  ∀ s t : State, s.faulted = true → step s = .next t →
    (¬ resetNext s → t.faulted = true ∧
      t = { s with inputs := t.inputs, epoch := t.epoch, responses := t.responses }) ∧
    (resetNext s → isResetState t ∧ t.faulted = false)

-- Whole-machine rules

/-- 00_scope.md R9: no command changes A0..A3, SRC_W, SRC_H or the SRC memory; nor does it touch what is the model's own. -/
def Obligations.CommandsLeaveOperandsAndSource : Prop :=
  ∀ (i : Instr) (s t : State), exec i s = .next t →
    t.a0 = s.a0 ∧ t.a1 = s.a1 ∧ t.a2 = s.a2 ∧ t.a3 = s.a3 ∧ t.srcW = s.srcW ∧ t.srcH = s.srcH ∧ t.src = s.src ∧
    t.maxpix = s.maxpix ∧ t.epoch = s.epoch ∧ t.inputs = s.inputs ∧ t.responses = s.responses

/-- 00_scope.md R9: no command reads the DST memory (nor DST_W, DST_H). From two states that differ only there, a command
does the same to everything else, and each destination word or descriptor is either the same after it or untouched in both.
Both runs have the same free values for unwritten words (log 4). -/
def Obligations.CommandsNeverReadDestination : Prop :=
  ∀ (i : Instr) (s t : State) (d : Memory) (w h : Word), exec i s = .next t →
    ∃ t', exec i { s with dst := d, dstW := w, dstH := h } = .next t' ∧
      t' = { t with dst := t'.dst, dstW := t'.dstW, dstH := t'.dstH } ∧
      ((t'.dstW = t.dstW ∧ t'.dstH = t.dstH) ∨ (t.dstW = s.dstW ∧ t.dstH = s.dstH ∧ t'.dstW = w ∧ t'.dstH = h)) ∧
      ∀ a, t'.dst.read? a = t.dst.read? a ∨ (t.dst.read? a = s.dst.read? a ∧ t'.dst.read? a = d.read? a)

/-- 10_state.md R11: RES changes only at a reset or by CHAN, PACK, IDX, INB or AAVG, and not where the command faults. -/
def Obligations.OnlyFiveCommandsWriteRes : Prop :=
  ∀ s t : State, step s = .next t → t.res ≠ s.res →
    resetNext s ∨ (t.faulted = false ∧
      ∃ i, runs s i ∧ ((∃ k, i = .chan k) ∨ i = .pack ∨ i = .idx ∨ i = .inb ∨ i = .aavg))

/-- 10_state.md R20, 70_reset_and_hazards.md R126: the averager changes only at a reset or by ACLR, AING or AINGI. -/
def Obligations.OnlyThreeCommandsWriteTheAverager : Prop :=
  ∀ s t : State, step s = .next t →
    (t.sumR, t.sumG, t.sumB, t.sumA, t.count) ≠ (s.sumR, s.sumG, s.sumB, s.sumA, s.count) →
    resetNext s ∨ (t.faulted = false ∧ ∃ i, runs s i ∧ (i = .aclr ∨ i = .aing ∨ i = .aingi))

/-- 10_state.md R16: DST_W and DST_H change only at a reset or by SQUASH, CROT, BLUR or EXPAND. -/
def Obligations.OnlyTransformsWriteTheDestinationDescriptor : Prop :=
  ∀ s t : State, step s = .next t → (t.dstW, t.dstH) ≠ (s.dstW, s.dstH) →
    resetNext s ∨ (t.faulted = false ∧ ∃ i, runs s i ∧ (i = .squash ∨ i = .crot ∨ i = .blur ∨ i = .expand))

/-- 10_state.md R15: CAUSE and FCMD (and STATUS) change only on fault entry, out of the not-faulted state, or at a reset. -/
def Obligations.FaultRegistersChangeOnlyOnFaultEntry : Prop :=
  ∀ s t : State, step s = .next t → (t.status, t.cause, t.fcmd) ≠ (s.status, s.cause, s.fcmd) →
    resetNext s ∨ (s.faulted = false ∧ t.faulted = true ∧
      ∃ rest w, s.inputs = .transaction (.wr 0 w) :: rest ∧ t.fcmd = w ∧ 1 ≤ t.cause.toNat ∧ t.cause.toNat ≤ 7)

/-- 60_exceptions.md R106: a command that faults has changed nothing but STATUS, CAUSE and FCMD. -/
def Obligations.FaultsArePrecise : Prop :=
  ∀ (i : Instr) (s t : State), s.faulted = false → exec i s = .next t → t.faulted = true →
    t = { s with status := s.status ||| 1#32, cause := t.cause, fcmd := encode i }

/-- 60_exceptions.md R101: no fault depends on the content of a pixel: with other contents of SRC and DST a command enters the
same fault, or none. Both runs have the same free values for unwritten words (log 4). -/
def Obligations.FaultsDoNotDependOnPixels : Prop :=
  ∀ (i : Instr) (s t t' : State) (m d : Memory), exec i s = .next t →
    exec i { s with src := m, dst := d } = .next t' →
    t'.status = t.status ∧ t'.cause = t.cause ∧ t'.fcmd = t.fcmd

/-- 60_exceptions.md R101: a command whose preconditions hold completes and does not fault; one whose preconditions are broken
faults. -/
def Obligations.CommandsAreTotalOverTheirPreconditions : Prop :=
  ∀ (i : Instr) (s : State), s.faulted = false →
    (precondition s i → completes i s) ∧
    (¬ precondition s i → ∃ t, exec i s = .next t ∧ t.faulted = true)

/-- 60_exceptions.md R103: which command can raise which fault; each entry of the table can, and nothing else does. -/
def Obligations.FaultTable : Prop :=
  (∀ (i : Instr) (s t : State), s.faulted = false → exec i s = .next t → t.faulted = true → t.cause ∈ mayRaise i) ∧
  (∀ (i : Instr) (c : Word), c ∈ mayRaise i →
    ∃ s t, State.Inv s ∧ s.faulted = false ∧ exec i s = .next t ∧ t.faulted = true ∧ t.cause = c)

/-- 10_state.md R22: BLUR, EXPAND (and SQUASH, CROT) neither read nor write the averager registers or RES: with other values
there, the same happens to everything else and those values stay. Both runs have the same free values for unwritten words (log 4). -/
def Obligations.TransformsIgnoreAveragerAndRes : Prop :=
  ∀ (i : Instr) (s : State) (r g b a n v : Word), i = .squash ∨ i = .crot ∨ i = .blur ∨ i = .expand →
    ∃ t, exec i s = .next t ∧ t.sumR = s.sumR ∧ t.sumG = s.sumG ∧ t.sumB = s.sumB ∧ t.sumA = s.sumA ∧
      t.count = s.count ∧ t.res = s.res ∧
      exec i { s with sumR := r, sumG := g, sumB := b, sumA := a, count := n, res := v } =
        .next { t with sumR := r, sumG := g, sumB := b, sumA := a, count := n, res := v }

-- The commands

/-- 40_codec.md R62: CHAN writes the channel to RES, changes nothing else and never faults; a word with its opcode is
illegal exactly when its bits 31:6 are not zero. -/
def Obligations.ChanWritesChannel : Prop :=
  ∀ s : State,
    decode 0x01#32 = .ok (.chan .red) ∧ decode 0x11#32 = .ok (.chan .green) ∧
    decode 0x21#32 = .ok (.chan .blue) ∧ decode 0x31#32 = .ok (.chan .alpha) ∧
    exec (.chan .red) s = .next { s with res := (s.a0.extractLsb' 24 8).setWidth 32 } ∧
    exec (.chan .green) s = .next { s with res := (s.a0.extractLsb' 16 8).setWidth 32 } ∧
    exec (.chan .blue) s = .next { s with res := (s.a0.extractLsb' 8 8).setWidth 32 } ∧
    exec (.chan .alpha) s = .next { s with res := (s.a0.extractLsb' 0 8).setWidth 32 } ∧
    ∀ w : Word, w.toNat % 16 = 1 → ((∃ e, decode w = .error e) ↔ w.toNat / 64 ≠ 0)

/-- 40_codec.md R63: PACK puts four bytes together; an operand above 255 is BAD_OPERAND. -/
def Obligations.PackWritesPixelOrFaults : Prop :=
  ∀ s : State, decode 0x02#32 = .ok .pack ∧
    (s.a0.toNat ≤ 255 ∧ s.a1.toNat ≤ 255 ∧ s.a2.toNat ≤ 255 ∧ s.a3.toNat ≤ 255 →
      exec .pack s = .next { s with res :=
        ((s.a0.setWidth 8 ++ s.a1.setWidth 8) ++ s.a2.setWidth 8) ++ s.a3.setWidth 8 }) ∧
    (s.a0.toNat > 255 ∨ s.a1.toNat > 255 ∨ s.a2.toNat > 255 ∨ s.a3.toNat > 255 →
      exec .pack s = .next (faultedWith s 2 0x02))

/-- 41_mapper.md R67: IDX writes row * width + col; outside its domain, and where the index does not fit, it is BAD_COORD. -/
def Obligations.IdxWritesIndexOrFaults : Prop :=
  ∀ s : State, decode 0x03#32 = .ok .idx ∧
    (1 ≤ s.a0.toNat ∧ 0 ≤ s.a1.toInt ∧ 0 ≤ s.a2.toInt ∧ s.a2.toInt < (s.a0.toNat : Int) ∧
        s.a1.toInt * (s.a0.toNat : Int) + s.a2.toInt < 2 ^ 32 →
      ∃ v, exec .idx s = .next { s with res := v } ∧
        (v.toNat : Int) = s.a1.toInt * (s.a0.toNat : Int) + s.a2.toInt) ∧
    (s.a0.toNat = 0 ∨ s.a1.toInt < 0 ∨ s.a2.toInt < 0 ∨ (s.a0.toNat : Int) ≤ s.a2.toInt ∨
        2 ^ 32 ≤ s.a1.toInt * (s.a0.toNat : Int) + s.a2.toInt →
      exec .idx s = .next (faultedWith s 3 0x03))

/-- 41_mapper.md R68: INB writes 1 when the coordinate is in bounds and 0 when not, and never faults. -/
def Obligations.InbWritesBoundsCheck : Prop :=
  ∀ s : State, decode 0x04#32 = .ok .inb ∧
    ((0 ≤ s.a2.toInt ∧ s.a2.toInt < (s.a1.toNat : Int) ∧ 0 ≤ s.a3.toInt ∧ s.a3.toInt < (s.a0.toNat : Int)) →
      exec .inb s = .next { s with res := 1 }) ∧
    (¬ (0 ≤ s.a2.toInt ∧ s.a2.toInt < (s.a1.toNat : Int) ∧ 0 ≤ s.a3.toInt ∧ s.a3.toInt < (s.a0.toNat : Int)) →
      exec .inb s = .next { s with res := 0 })

/-- 42_averager.md R73: ACLR makes the averager fresh, changes nothing else and never faults; and it is the only way, other
than reset, to lower COUNT. -/
def Obligations.AclrClearsTheAverager : Prop :=
  ∀ s : State, decode 0x05#32 = .ok .aclr ∧
    exec .aclr s = .next { s with sumR := 0, sumG := 0, sumB := 0, sumA := 0, count := 0 } ∧
    ∀ t, s.AveragerBounds → step s = .next t → t.count.toNat < s.count.toNat → resetNext s ∨ runs s .aclr

/-- 42_averager.md R75: AING ingests A0, without wrap; a full averager is COUNT_OVERFLOW. -/
def Obligations.AingIngestsOrFaults : Prop :=
  ∀ s : State, s.AveragerBounds → decode 0x06#32 = .ok .aing ∧
    (s.count.toNat ≠ 2 ^ 24 → ∃ t, exec .aing s = .next t ∧ ingested s t s.a0) ∧
    (s.count.toNat = 2 ^ 24 → exec .aing s = .next (faultedWith s 7 0x06))

/-- 42_averager.md R76: AINGI ingests the source pixel at (A0, A1) when it is in bounds, does nothing when it is not (on a full
averager too), and faults BAD_IMAGE first, then COUNT_OVERFLOW. -/
def Obligations.AingiIngestsSkipsOrFaults : Prop :=
  ∀ s : State, s.AveragerBounds → decode 0x07#32 = .ok .aingi ∧
    (¬ validSource s → exec .aingi s = .next (faultedWith s 4 0x07)) ∧
    (validSource s →
      (¬ (0 ≤ s.a0.toInt ∧ s.a0.toInt < (s.srcH.toNat : Int) ∧ 0 ≤ s.a1.toInt ∧ s.a1.toInt < (s.srcW.toNat : Int)) →
        exec .aingi s = .next s) ∧
      (∀ row col : Nat, s.a0.toInt = (row : Int) → s.a1.toInt = (col : Int) →
        row < s.srcH.toNat → col < s.srcW.toNat →
        (s.count.toNat = 2 ^ 24 → exec .aingi s = .next (faultedWith s 7 0x07)) ∧
        (s.count.toNat ≠ 2 ^ 24 → ∃ t p, exec .aingi s = .next t ∧ ingested s t p ∧
          ∀ v, s.src.read? (row * s.srcW.toNat + col) = some v → p = v)))

/-- 42_averager.md R77: AAVG writes the truncated mean of each channel, and 0 for a count of zero; it changes nothing else
and never faults. -/
def Obligations.AavgWritesTheAverage : Prop :=
  ∀ s : State, s.AveragerBounds → decode 0x08#32 = .ok .aavg ∧
    (s.count.toNat = 0 → exec .aavg s = .next { s with res := 0 }) ∧
    (s.count.toNat ≠ 0 → ∃ v, exec .aavg s = .next { s with res := v } ∧
      v.toNat / 2 ^ 24 = s.sumR.toNat / s.count.toNat ∧
      v.toNat / 2 ^ 16 % 256 = s.sumG.toNat / s.count.toNat ∧
      v.toNat / 2 ^ 8 % 256 = s.sumB.toNat / s.count.toNat ∧
      v.toNat % 256 = s.sumA.toNat / s.count.toNat)

/-- 43_downsampler.md R82: SQUASH samples the source at (i * yf, j * xf); BAD_IMAGE first, then BAD_PARAM for a zero factor. -/
def Obligations.SquashSamplesOrFaults : Prop :=
  ∀ s : State, decode 0x09#32 = .ok .squash ∧
    (¬ validSource s → exec .squash s = .next (faultedWith s 4 0x09)) ∧
    (validSource s → s.a0.toNat = 0 ∨ s.a1.toNat = 0 → exec .squash s = .next (faultedWith s 5 0x09)) ∧
    (validSource s → 1 ≤ s.a0.toNat → 1 ≤ s.a1.toNat →
      ∃ t, exec .squash s = .next t ∧
        onlyDestination s t (s.srcW.toNat / s.a0.toNat) (s.srcH.toNat / s.a1.toNat) ∧
        ∀ i j, i < s.srcH.toNat / s.a1.toNat → j < s.srcW.toNat / s.a0.toNat →
          ∃ p, t.dst.read? (i * (s.srcW.toNat / s.a0.toNat) + j) = some p ∧
            ∀ v, s.src.read? (i * s.a1.toNat * s.srcW.toNat + j * s.a0.toNat) = some v → p = v)

/-- 44_channel_rotator.md R86: CROT writes the rotation of every source pixel; BAD_IMAGE is its only fault. -/
def Obligations.CrotRotatesOrFaults : Prop :=
  ∀ s : State, decode 0x0A#32 = .ok .crot ∧
    (¬ validSource s → exec .crot s = .next (faultedWith s 4 0x0A)) ∧
    (validSource s → ∃ t, exec .crot s = .next t ∧ onlyDestination s t s.srcW.toNat s.srcH.toNat ∧
      ∀ m, m < s.srcW.toNat * s.srcH.toNat →
        ∃ q, t.dst.read? m = some (((q.extractLsb' 8 8 ++ q.extractLsb' 24 8) ++ q.extractLsb' 16 8) ++ q.extractLsb' 0 8) ∧
          ∀ v, s.src.read? m = some v → q = v)

/-- 45_blur_engine.md R91 with R90: BLUR writes, for every pixel, the average of the in-bounds part of the square
neighborhood, every candidate of R90's two loops in their order; BAD_IMAGE first, then BAD_PARAM for a negative distance. -/
def Obligations.BlurAveragesTheNeighborhoodOrFaults : Prop :=
  ∀ s : State, decode 0x0B#32 = .ok .blur ∧
    (¬ validSource s → exec .blur s = .next (faultedWith s 4 0x0B)) ∧
    (validSource s → s.a0.toInt < 0 → exec .blur s = .next (faultedWith s 5 0x0B)) ∧
    (∀ d : Nat, validSource s → s.a0.toInt = (d : Int) →
      ∃ t, exec .blur s = .next t ∧ onlyDestination s t s.srcW.toNat s.srcH.toNat ∧
        ∀ i j, i < s.srcH.toNat → j < s.srcW.toNat →
          ∃ S, readsSource s S ∧ t.dst.read? (i * s.srcW.toNat + j) =
            some (averageOf { w := s.srcW.toNat, h := s.srcH.toNat, px := S } (blurNeighborhood i j d)))

/-- 46_bilinear_upsampler.md R96 with R95: EXPAND doubles both dimensions, each pixel the average of the in-bounds candidates
its parities choose; BAD_IMAGE first, then DST_OVERFLOW. -/
def Obligations.ExpandAveragesCandidatesOrFaults : Prop :=
  ∀ s : State, decode 0x0C#32 = .ok .expand ∧
    (¬ validSource s → exec .expand s = .next (faultedWith s 4 0x0C)) ∧
    (validSource s → s.maxpix < 4 * s.srcW.toNat * s.srcH.toNat → exec .expand s = .next (faultedWith s 6 0x0C)) ∧
    (validSource s → 4 * s.srcW.toNat * s.srcH.toNat ≤ s.maxpix →
      ∃ t, exec .expand s = .next t ∧ onlyDestination s t (2 * s.srcW.toNat) (2 * s.srcH.toNat) ∧
        ∀ r c : Nat, r < s.srcH.toNat → c < s.srcW.toNat →
          (∃ S, readsSource s S ∧ t.dst.read? (2 * r * (2 * s.srcW.toNat) + 2 * c) =
            some (averageOf { w := s.srcW.toNat, h := s.srcH.toNat, px := S } [((r : Int), (c : Int))])) ∧
          (∃ S, readsSource s S ∧ t.dst.read? (2 * r * (2 * s.srcW.toNat) + (2 * c + 1)) =
            some (averageOf { w := s.srcW.toNat, h := s.srcH.toNat, px := S }
              [((r : Int), (c : Int)), ((r : Int), (c : Int) + 1)])) ∧
          (∃ S, readsSource s S ∧ t.dst.read? ((2 * r + 1) * (2 * s.srcW.toNat) + 2 * c) =
            some (averageOf { w := s.srcW.toNat, h := s.srcH.toNat, px := S }
              [((r : Int), (c : Int)), ((r : Int) + 1, (c : Int))])) ∧
          (∃ S, readsSource s S ∧ t.dst.read? ((2 * r + 1) * (2 * s.srcW.toNat) + (2 * c + 1)) =
            some (averageOf { w := s.srcW.toNat, h := s.srcH.toNat, px := S }
              [((r : Int), (c : Int)), ((r : Int), (c : Int) + 1), ((r : Int) + 1, (c : Int)),
                ((r : Int) + 1, (c : Int) + 1)])))

-- The functions of the sub-blocks

/-- 40_codec.md R60: a channel is the bit field of the pixel. -/
def Obligations.ChannelIsTheBitField : Prop :=
  ∀ p : Word,
    chan p .red = (p.extractLsb' 24 8).toNat ∧ chan p .green = (p.extractLsb' 16 8).toNat ∧
    chan p .blue = (p.extractLsb' 8 8).toNat ∧ chan p .alpha = (p.extractLsb' 0 8).toNat

/-- 40_codec.md R64: packing and unpacking are inverse, both ways. -/
def Obligations.CodecRoundTrip : Prop :=
  (∀ r g b a : Nat, r ≤ 255 → g ≤ 255 → b ≤ 255 → a ≤ 255 →
    chan (pack r g b a) .red = r ∧ chan (pack r g b a) .green = g ∧
    chan (pack r g b a) .blue = b ∧ chan (pack r g b a) .alpha = a) ∧
  (∀ p : Word, pack (chan p .red) (chan p .green) (chan p .blue) (chan p .alpha) = p)

/-- 41_mapper.md R69: an index computed under the guard is inside `[0, w * h)`, and fits a register for an image of at most 2^24 pixels. -/
def Obligations.GuardedIndexIsInsideTheImage : Prop :=
  ∀ (w h : Nat) (row col : Int), inBounds w h row col = true →
    (index w row col : Int) = row * (w : Int) + col ∧ index w row col ≤ w * h - 1 ∧ 1 ≤ w * h ∧
      (w * h ≤ 2 ^ 24 → index w row col < 2 ^ 32)

/-- 42_averager.md R78: the average of a list of pixels is, per channel, the sum divided once and rounded down; its order does
not matter; one pixel is its own average; no pixel gives 0. -/
def Obligations.AverageIsTheTruncatedMean : Prop :=
  (∀ (ps : List Word) (k : Channel), ps ≠ [] →
    chan (average (ps.foldl ingest fresh)) k = (ps.map (fun p => chan p k)).sum / ps.length) ∧
  (∀ ps qs : List Word, ps.Perm qs → average (ps.foldl ingest fresh) = average (qs.foldl ingest fresh)) ∧
  (∀ p : Word, average (ingest fresh p) = p) ∧
  average fresh = 0

/-- 44_channel_rotator.md R87: three rotations are the identity, two are the inverse, and the rotation is a bijection. -/
def Obligations.RotationIsAThreeCycle : Prop :=
  (∀ p : Word, rot (rot (rot p)) = p) ∧
  (∀ p : Word, rot (rot p) =
    ((p.extractLsb' 16 8 ++ p.extractLsb' 8 8) ++ p.extractLsb' 24 8) ++ p.extractLsb' 0 8) ∧
  Function.Bijective rot

/-- 45_blur_engine.md R92, closed form: every channel of a blurred pixel is the sum over the clipped window divided by the
number of its pixels, which is not zero. `S` has the written words and any value elsewhere. -/
def Obligations.BlurClosedForm : Prop :=
  ∀ (s : State) (d i j : Nat), validSource s → s.a0.toInt = (d : Int) → i < s.srcH.toNat → j < s.srcW.toNat →
    ∃ t p S, exec .blur s = .next t ∧ t.dst.read? (i * s.srcW.toNat + j) = some p ∧ readsSource s S ∧
      0 < (min (s.srcH.toNat - 1) (i + d) - (i - d) + 1) * (min (s.srcW.toNat - 1) (j + d) - (j - d) + 1) ∧
      ∀ k : Channel, chan p k =
        (∑ r ∈ Finset.Icc (i - d) (min (s.srcH.toNat - 1) (i + d)),
          ∑ c ∈ Finset.Icc (j - d) (min (s.srcW.toNat - 1) (j + d)), chan (S (r * s.srcW.toNat + c)) k) /
        ((min (s.srcH.toNat - 1) (i + d) - (i - d) + 1) * (min (s.srcW.toNat - 1) (j + d) - (j - d) + 1))

/-- 45_blur_engine.md R93: visiting only the clipped window loses nothing: over the window the engine visits and over the whole
square of R90 the average is the same. -/
def Obligations.BlurWindowIsWholeNeighborhood : Prop :=
  ∀ (img : Image) (i j d : Nat), i < img.h → j < img.w → blurPx img i j d = averageOf img (blurNeighborhood i j d)

/-- 45_blur_engine.md R94, law 1: BLUR with distance 0 copies the source image. -/
def Obligations.BlurAtDistanceZeroCopies : Prop :=
  ∀ s : State, validSource s → s.a0 = 0 →
    ∃ t, exec .blur s = .next t ∧ ∀ m v, m < s.srcW.toNat * s.srcH.toNat → s.src.read? m = some v →
      t.dst.read? m = some v

/-- 43_downsampler.md R84: SQUASH with both factors 1 copies the source image and its size. -/
def Obligations.SquashByOneCopies : Prop :=
  ∀ s : State, validSource s → s.a0 = 1 → s.a1 = 1 →
    ∃ t, exec .squash s = .next t ∧ t.dstW = s.srcW ∧ t.dstH = s.srcH ∧
      ∀ m v, m < s.srcW.toNat * s.srcH.toNat → s.src.read? m = some v → t.dst.read? m = some v

/-- 46_bilinear_upsampler.md R97: how many candidates of a destination pixel are in bounds: 1, 2 or 4, never 3. -/
def Obligations.ExpandCandidateCounts : Prop :=
  ∀ w h i j : Nat, i < 2 * h → j < 2 * w →
    ((expandCandidates i j).filter (fun c => inBounds w h c.1 c.2)).length =
      (if i % 2 = 1 ∧ i ≠ 2 * h - 1 then 2 else 1) * (if j % 2 = 1 ∧ j ≠ 2 * w - 1 then 2 else 1)

/-- 46_bilinear_upsampler.md R98: EXPAND doubles the size and copies every source pixel to the even row and column. -/
def Obligations.ExpandSizeAndEvenCopies : Prop :=
  ∀ s : State, s.maxpix ≤ 2 ^ 24 → validSource s → 4 * s.srcW.toNat * s.srcH.toNat ≤ s.maxpix →
    ∃ t, exec .expand s = .next t ∧
      t.dstW.toNat = 2 * s.srcW.toNat ∧ t.dstH.toNat = 2 * s.srcH.toNat ∧
      ∀ r c v, r < s.srcH.toNat → c < s.srcW.toNat → s.src.read? (r * s.srcW.toNat + c) = some v →
        t.dst.read? (2 * r * (2 * s.srcW.toNat) + 2 * c) = some v

/-- 46_bilinear_upsampler.md R98, 70_reset_and_hazards.md R125: after EXPAND, with DST carried to SRC and its descriptor to
SRC_W and SRC_H as the host does to chain transforms, SQUASH with factors 2 and 2 gives the source image back. -/
def Obligations.SquashUndoesExpand : Prop :=
  ∀ s : State, s.maxpix ≤ 2 ^ 24 → validSource s → 4 * s.srcW.toNat * s.srcH.toNat ≤ s.maxpix →
    ∃ t t', exec .expand s = .next t ∧
      exec .squash { t with src := t.dst, srcW := t.dstW, srcH := t.dstH, a0 := 2, a1 := 2 } = .next t' ∧
      t'.dstW = s.srcW ∧ t'.dstH = s.srcH ∧
      ∀ m v, m < s.srcW.toNat * s.srcH.toNat → s.src.read? m = some v → t'.dst.read? m = some v

/-- 44_channel_rotator.md R87, on the hardware: CROT three times, the host carrying DST back to SRC in between, gives the
source image back. -/
def Obligations.CrotThreeTimesRestoresTheImage : Prop :=
  ∀ s : State, validSource s →
    ∃ t₁ t₂ t₃, exec .crot s = .next t₁ ∧ exec .crot { t₁ with src := t₁.dst } = .next t₂ ∧
      exec .crot { t₂ with src := t₂.dst } = .next t₃ ∧
      ∀ m v, m < s.srcW.toNat * s.srcH.toNat → s.src.read? m = some v → t₃.dst.read? m = some v
end

