-- ==== Sys2Proof/Laws/Operands.lean ====
section
/-! SUPPORT. The readings of a register value, and the flag word. -/

namespace Sys2Proof.Machine

theorem u_lt (v : Word) : u v < 4294967296 := v.isLt

/-- A number that fits a register is read back as it was stored (00_scope.md R6). -/
theorem u_toWord {n : Nat} (h : n < 4294967296) : u (toWord n) = n := by
  simp [u, toWord, Nat.mod_eq_of_lt h]

@[simp] theorem toWord_u (v : Word) : toWord (u v) = v := by simp [u, toWord]

/-- `s(v)` is the two's-complement value (00_scope.md R6). -/
theorem sgn_eq_toInt (v : Word) : sgn v = v.toInt := by
  unfold sgn
  have h : v.getLsbD 31 = v.msb := by simp [BitVec.msb_eq_getLsbD_last]
  rw [BitVec.toInt_eq_msb_cond, h]
  rfl

/-- Setting FAULT gives a state with FAULT = 1. -/
@[simp] theorem setFault_bit (w : Word) : (setFault w).getLsbD 0 = true := by
  simp [setFault]

/-- A register never holds more than what is stored into it. -/
theorem u_toWord_le (n : Nat) : u (toWord n) ≤ n := by
  simpa [u, toWord] using Nat.mod_le n 4294967296

/-- The cause codes are 1 to 7 (60_exceptions.md R102). -/
theorem causeCode_range (c : Cause) : 1 ≤ u (causeCode c) ∧ u (causeCode c) ≤ 7 := by
  cases c <;> decide

theorem causeCode_ne_zero (c : Cause) : causeCode c ≠ 0#32 := by cases c <;> decide

end Sys2Proof.Machine
end

