-- ==== Sys2Proof/Laws/Codec.lean ====
section
/-! SUPPORT. The codec: channels are bytes, and a packed pixel's channels in closed form. -/

namespace Sys2Proof.Machine

/-- A channel is a byte (40_codec.md R60). -/
theorem chan_lt (p : Word) (k : Channel) : chan p k < 256 := Nat.mod_lt _ (by decide)

theorem chan_red (p : Word) : chan p .red = u p / 16777216 % 256 := rfl
theorem chan_green (p : Word) : chan p .green = u p / 65536 % 256 := rfl
theorem chan_blue (p : Word) : chan p .blue = u p / 256 % 256 := rfl
theorem chan_alpha (p : Word) : chan p .alpha = u p % 256 := by simp [chan, channelNumber]

/-- Within its domain a pack is the number its four fields make (40_codec.md R61). -/
theorem u_pack {r g b a : Nat} (hr : r < 256) (hg : g < 256) (hb : b < 256) (ha : a < 256) :
    u (pack r g b a) = r * 16777216 + g * 65536 + b * 256 + a :=
  u_toWord (by omega)

end Sys2Proof.Machine
end

