-- ==== Sys2Proof/Laws/Averager.lean ====
section
/-! SUPPORT. The mapper's guard and the averager: bounds of the sums, the channels of an average, guarded ingestion. -/

namespace Sys2Proof.Machine

/-- `in_bounds` as inequalities (41_mapper.md R66). -/
theorem inBounds_iff {w h : Nat} {row col : Int} :
    inBounds w h row col = true ↔ 0 ≤ row ∧ row < (h : Int) ∧ 0 ≤ col ∧ col < (w : Int) := by
  simp [inBounds]

/-- The index of a coordinate with natural row and column (41_mapper.md R65). -/
@[simp] theorem index_natCast (w r c : Nat) : index w (r : Int) (c : Int) = r * w + c := by
  unfold index
  rw [← Int.natCast_mul, ← Int.natCast_add, Int.toNat_natCast]

/-- An index in bounds lies inside the image (10_state.md R17). -/
theorem index_lt_of_lt {w h r c : Nat} (hr : r < h) (hc : c < w) : r * w + c < w * h := by
  have h1 : (r + 1) * w ≤ h * w := Nat.mul_le_mul_right w hr
  rw [Nat.succ_mul] at h1
  rw [Nat.mul_comm w h]
  omega

/-- The bound that 42_averager.md R72 and R79 state: each sum is at most 255 times the count. -/
structure Averager.Bounded (v : Averager) : Prop where
  sr_le : v.sr ≤ 255 * v.n
  sg_le : v.sg ≤ 255 * v.n
  sb_le : v.sb ≤ 255 * v.n
  sa_le : v.sa ≤ 255 * v.n

theorem fresh_bounded : fresh.Bounded := ⟨by decide, by decide, by decide, by decide⟩

/-- An ingestion adds at most 255 to a sum and exactly 1 to the count. -/
theorem ingest_bounded {v : Averager} (h : v.Bounded) (p : Word) : (ingest v p).Bounded := by
  have hr := chan_lt p .red
  have hg := chan_lt p .green
  have hb := chan_lt p .blue
  have ha := chan_lt p .alpha
  obtain ⟨h1, h2, h3, h4⟩ := h
  constructor <;> simp only [ingest] <;> omega

theorem ingestFromImage_bounded {v : Averager} (h : v.Bounded) (img : Image) (row col : Int) :
    (ingestFromImage v img row col).Bounded := by
  unfold ingestFromImage
  split
  · exact ingest_bounded h _
  · exact h

/-- 42_averager.md R79: a bounded sum over a positive count is a byte. -/
theorem div_le_of_bounded {s n : Nat} (h : s ≤ 255 * n) : s / n ≤ 255 :=
  Nat.div_le_of_le_mul (by rw [Nat.mul_comm]; exact h)

/-- The average of a bounded averager value as a number (42_averager.md R71). -/
theorem u_average {v : Averager} (h : v.Bounded) (hn : v.n ≠ 0) :
    u (average v) = v.sr / v.n * 16777216 + v.sg / v.n * 65536 + v.sb / v.n * 256 + v.sa / v.n := by
  have h1 := div_le_of_bounded h.sr_le
  have h2 := div_le_of_bounded h.sg_le
  have h3 := div_le_of_bounded h.sb_le
  have h4 := div_le_of_bounded h.sa_le
  rw [average, if_neg hn, u_pack] <;> omega

/-- The sum of an averager value for a channel. -/
def Averager.sum (v : Averager) : Channel → Nat
  | .red => v.sr
  | .green => v.sg
  | .blue => v.sb
  | .alpha => v.sa

@[simp] theorem ingest_n (v : Averager) (p : Word) : (ingest v p).n = v.n + 1 := rfl

@[simp] theorem ingest_sum (v : Averager) (p : Word) (k : Channel) : (ingest v p).sum k = v.sum k + chan p k := by
  cases k <;> rfl

@[simp] theorem fresh_n : fresh.n = 0 := rfl

@[simp] theorem fresh_sum (k : Channel) : fresh.sum k = 0 := by cases k <;> rfl

/-- Two averager values with the same sums and the same count are the same. -/
theorem Averager.ext_sum {v w : Averager} (hs : ∀ k, v.sum k = w.sum k) (hn : v.n = w.n) : v = w := by
  obtain ⟨vr, vg, vb, va, vn⟩ := v
  obtain ⟨wr, wg, wb, wa, wn⟩ := w
  have h1 := hs .red
  have h2 := hs .green
  have h3 := hs .blue
  have h4 := hs .alpha
  simp_all [Averager.sum]

/-- Each channel of an average is that channel's sum divided by the count, rounded down (42_averager.md R71, R79). -/
theorem chan_average {v : Averager} (h : v.Bounded) (hn : v.n ≠ 0) (k : Channel) :
    chan (average v) k = v.sum k / v.n := by
  have h1 := div_le_of_bounded h.sr_le
  have h2 := div_le_of_bounded h.sg_le
  have h3 := div_le_of_bounded h.sb_le
  have h4 := div_le_of_bounded h.sa_le
  have hu := u_average h hn
  revert h1 h2 h3 h4 hu
  cases k <;> simp only [chan_red, chan_green, chan_blue, chan_alpha, Averager.sum] <;>
    generalize v.sr / v.n = r <;> generalize v.sg / v.n = g <;> generalize v.sb / v.n = b <;>
    generalize v.sa / v.n = a <;> omega

/-- A list of candidates keeps the bound. -/
theorem foldl_ingestFromImage_bounded (img : Image) (cs : List (Int × Int)) {v : Averager} (h : v.Bounded) :
    (cs.foldl (fun v c => ingestFromImage v img c.1 c.2) v).Bounded := by
  induction cs generalizing v with
  | nil => exact h
  | cons c cs ih => exact ih (ingestFromImage_bounded h img c.1 c.2)

/-- A candidate out of bounds is skipped (42_averager.md R74): only the in-bounds part of a candidate list counts. -/
theorem averageOf_filter (img : Image) (cs : List (Int × Int)) :
    averageOf img cs = averageOf img (cs.filter fun c => inBounds img.w img.h c.1 c.2) := by
  unfold averageOf
  congr 1
  generalize fresh = v
  induction cs generalizing v with
  | nil => rfl
  | cons c cs ih =>
    by_cases hc : inBounds img.w img.h c.1 c.2 = true
    · simp only [List.filter_cons, hc, if_true, List.foldl_cons, ih]
    · simp only [List.filter_cons, hc, List.foldl_cons, ih]
      simp [ingestFromImage, hc]

/-- A list of pixels ingested: each sum grows by the list's channel sum, the count by its length, and the bound is kept
(42_averager.md R70, R72). -/
theorem foldl_ingest_sum (ps : List Word) (v : Averager) (k : Channel) :
    (ps.foldl ingest v).sum k = v.sum k + (ps.map fun p => chan p k).sum := by
  induction ps generalizing v with
  | nil => simp
  | cons p ps ih =>
    simp only [List.foldl_cons, ih, ingest_sum, List.map_cons, List.sum_cons]
    omega

theorem foldl_ingest_n (ps : List Word) (v : Averager) : (ps.foldl ingest v).n = v.n + ps.length := by
  induction ps generalizing v with
  | nil => simp
  | cons p ps ih =>
    simp only [List.foldl_cons, ih, ingest_n, List.length_cons]
    omega

theorem foldl_ingest_bounded (ps : List Word) {v : Averager} (h : v.Bounded) : (ps.foldl ingest v).Bounded := by
  induction ps generalizing v with
  | nil => exact h
  | cons p ps ih => exact ih (ingest_bounded h p)

/-- Candidates that are all in bounds are ingested as the list of their pixels (42_averager.md R74). -/
theorem foldl_ingestFromImage_of_inBounds (img : Image) (cs : List (Int × Int))
    (h : ∀ c ∈ cs, inBounds img.w img.h c.1 c.2 = true) (v : Averager) :
    cs.foldl (fun v c => ingestFromImage v img c.1 c.2) v =
      (cs.map fun c => img.px (index img.w c.1 c.2)).foldl ingest v := by
  induction cs generalizing v with
  | nil => rfl
  | cons c cs ih =>
    simp only [List.foldl_cons, List.map_cons]
    rw [ih fun c hc => h c (List.mem_cons_of_mem _ hc)]
    simp [ingestFromImage, h c List.mem_cons_self]

end Sys2Proof.Machine
end

