-- ==== Sys2Proof/Laws/Blur.lean ====
section
/-! SUPPORT. One side of the blur window: it is what is left of the offsets of 45_blur_engine.md R90 inside the image. -/

namespace Sys2Proof.Machine

/-- The members of one side of the window (45_blur_engine.md R92). -/
theorem mem_window {n c d x : Nat} (hc : c < n) : x ∈ window n c d ↔ c - d ≤ x ∧ x ≤ min (n - 1) (c + d) := by
  simp only [window, List.mem_range'_1]
  omega

/-- One side of the square, restricted to the image, is one side of the window, in the same order. -/
theorem filter_offsets {n c : Nat} (d : Nat) (hc : c < n) :
    ((offsets d).map fun k => (c : Int) + k).filter (fun x => decide (0 ≤ x ∧ x < (n : Int))) =
      (window n c d).map fun (r : Nat) => (r : Int) := by
  apply List.Perm.eq_of_pairwise (le := (· < ·))
  · intro a b _ _ h1 h2
    omega
  · apply List.Pairwise.filter
    unfold offsets
    rw [List.map_map, List.pairwise_map]
    refine List.Pairwise.imp (fun h => ?_) List.pairwise_lt_range
    simp only [Function.comp_apply]
    omega
  · unfold window
    rw [List.pairwise_map]
    exact List.Pairwise.imp (fun h => Int.ofNat_lt.2 h) (List.pairwise_lt_range' 1)
  · rw [List.perm_ext_iff_of_nodup]
    · intro a
      simp only [offsets, window, List.mem_filter, List.mem_map, List.mem_range, List.mem_range'_1, decide_eq_true_eq]
      constructor
      · rintro ⟨⟨k, ⟨m, hm, rfl⟩, rfl⟩, h1, h2⟩
        exact ⟨((c : Int) + ((m : Int) - (d : Int))).toNat, by omega, by omega⟩
      · rintro ⟨x, ⟨h1, h2⟩, rfl⟩
        exact ⟨⟨(x : Int) - (c : Int), ⟨x + d - c, by omega, by omega⟩, by omega⟩, by omega, by omega⟩
    · apply List.Nodup.filter
      unfold offsets
      rw [List.map_map]
      refine List.nodup_range.map fun a b h => ?_
      simp only [Function.comp_apply] at h
      omega
    · exact List.Nodup.map (fun a b h => Int.ofNat.inj h) List.nodup_range'

end Sys2Proof.Machine
end

