-- ==== Sys2Proof/Laws/Memory.lean ====
section
/-! SUPPORT. Reading after writing, and the canonical form: every memory operation keeps it. -/

namespace Sys2Proof.Machine

@[simp] theorem Memory.read?_nil (n : Nat) : Memory.read? [] n = none := rfl

/-- A read after a write gives the value written at the same index, and leaves every other index alone. -/
@[simp] theorem Memory.read?_write (m : Memory) (n k : Nat) (v : Word) :
    (m.write n v).read? k = if k = n then some v else m.read? k := by
  induction m with
  | nil => simp [Memory.write, Memory.read?, eq_comm]
  | cons c m ih =>
    obtain ⟨a, w⟩ := c
    unfold Memory.write
    split
    · simp [Memory.read?, eq_comm]
    · split <;> simp only [Memory.read?, ih] <;> split <;> simp_all [eq_comm]

/-- The indices of a memory after a write are those before it and the one written. -/
theorem Memory.mem_write {m : Memory} {n : Nat} {v : Word} {c : Nat × Word} (h : c ∈ m.write n v) :
    c.1 = n ∨ c ∈ m := by
  induction m with
  | nil => simp_all [Memory.write]
  | cons d m ih =>
    obtain ⟨a, w⟩ := d
    unfold Memory.write at h
    split at h
    · rcases List.mem_cons.1 h with rfl | h
      · exact .inl rfl
      · exact .inr h
    · split at h
      · rcases List.mem_cons.1 h with rfl | h
        · exact .inl rfl
        · exact .inr (List.mem_cons_of_mem _ h)
      · rcases List.mem_cons.1 h with rfl | h
        · exact .inr List.mem_cons_self
        · exact (ih h).imp_right (List.mem_cons_of_mem _)

theorem Memory.wf_nil : Memory.wf [] := .nil

theorem Memory.below_nil (n : Nat) : Memory.below n [] := by simp [Memory.below]

/-- A write keeps the canonical form. -/
theorem Memory.wf_write {m : Memory} (h : m.wf) (n : Nat) (v : Word) : (m.write n v).wf := by
  induction m with
  | nil => simp [Memory.write, Memory.wf]
  | cons c m ih =>
    obtain ⟨a, w⟩ := c
    obtain ⟨hlt, htail⟩ := List.pairwise_cons.1 h
    unfold Memory.write
    split
    · next hna =>
      refine List.pairwise_cons.2 ⟨fun d hd => ?_, h⟩
      rcases List.mem_cons.1 hd with rfl | hd
      · exact hna
      · exact Nat.lt_trans hna (hlt d hd)
    · split
      · next _ heq =>
        subst heq
        exact List.pairwise_cons.2 ⟨hlt, htail⟩
      · refine List.pairwise_cons.2 ⟨fun d hd => ?_, ih htail⟩
        rcases Memory.mem_write hd with hd | hd
        · simp only [hd]; omega
        · exact hlt d hd

/-- A write below `b` keeps every index below `b`. -/
theorem Memory.below_write {m : Memory} {b n : Nat} (h : m.below b) (hn : n < b) (v : Word) :
    (m.write n v).below b := fun c hc => by
  rcases Memory.mem_write hc with hc | hc
  · omega
  · exact h c hc

/-- What each write of a fold keeps, the fold keeps. -/
theorem Memory.foldl_write_induct {α : Type} (P : Memory → Prop) (f : Memory → α → Memory)
    (step : ∀ m x, P m → P (f m x)) (l : List α) (m : Memory) (h : P m) : P (l.foldl f m) := by
  induction l generalizing m with
  | nil => exact h
  | cons x l ih => exact ih _ (step m x h)

/-- One row of an image: the words from `b` on. -/
theorem Memory.read?_writeRow (m : Memory) (b w k : Nat) (g : Nat → Word) :
    ((List.range w).foldl (fun m j => m.write (b + j) (g j)) m).read? k =
      if b ≤ k ∧ k < b + w then some (g (k - b)) else m.read? k := by
  induction w with
  | zero =>
    rw [if_neg (by omega)]
    rfl
  | succ w ih =>
    rw [List.range_succ, List.foldl_append]
    simp only [List.foldl_cons, List.foldl_nil, Memory.read?_write, ih]
    by_cases hk : k = b + w
    · subst hk; simp
    · by_cases h : b ≤ k ∧ k < b + w
      · have : b ≤ k ∧ k < b + (w + 1) := by omega
        rw [if_neg hk, if_pos h, if_pos this]
      · have : ¬ (b ≤ k ∧ k < b + (w + 1)) := by omega
        rw [if_neg hk, if_neg h, if_neg this]

/-- What a memory reads as after a transform's writes: word `k` of the image is its pixel, every other word is as before. -/
theorem Memory.read?_writeImage (m : Memory) (w h k : Nat) (px : Nat → Nat → Word) :
    (m.writeImage w h px).read? k = if k < w * h then some (px (k / w) (k % w)) else m.read? k := by
  unfold Memory.writeImage
  induction h with
  | zero => simp
  | succ h ih =>
    rw [List.range_succ, List.foldl_append]
    simp only [List.foldl_cons, List.foldl_nil, Memory.read?_writeRow, ih]
    have hmul : w * (h + 1) = h * w + w := by rw [Nat.mul_comm, Nat.succ_mul]
    have hcomm : w * h = h * w := Nat.mul_comm w h
    by_cases hk : h * w ≤ k ∧ k < h * w + w
    · have hw : 0 < w := by omega
      have hdiv : k / w = h := by
        rw [Nat.div_eq_iff hw]
        omega
      have hmod : k % w = k - h * w := by
        rw [Nat.mod_eq_sub_mul_div, hdiv, Nat.mul_comm]
      have hlt : k < w * (h + 1) := by omega
      simp [hk, hlt, hdiv, hmod]
    · by_cases hlt : k < w * h
      · have : k < w * (h + 1) := by omega
        rw [if_neg hk, if_pos hlt, if_pos this]
      · have : ¬ k < w * (h + 1) := by omega
        simp [hk, hlt, this]

/-- A transform's writes keep the canonical form. -/
theorem Memory.wf_writeImage {m : Memory} (hm : m.wf) (w h : Nat) (px : Nat → Nat → Word) :
    (m.writeImage w h px).wf :=
  Memory.foldl_write_induct Memory.wf _
    (fun _ _ hm => Memory.foldl_write_induct Memory.wf _ (fun _ _ hm => Memory.wf_write hm _ _) _ _ hm) _ m hm

/-- A transform's writes stay below `b` where the image does. -/
theorem Memory.below_writeImage {m : Memory} {b w h : Nat} (hm : m.below b) (hb : w * h ≤ b) (px : Nat → Nat → Word) :
    (m.writeImage w h px).below b := by
  unfold Memory.writeImage
  induction h with
  | zero => simpa using hm
  | succ h ih =>
    rw [List.range_succ, List.foldl_append]
    simp only [List.foldl_cons, List.foldl_nil]
    have hmul : w * (h + 1) = h * w + w := by rw [Nat.mul_comm, Nat.succ_mul]
    have hcomm : w * h = h * w := Nat.mul_comm w h
    have key : ∀ k, k ≤ w → Memory.below b ((List.range k).foldl (fun m j => m.write (h * w + j) (px h j))
        ((List.range h).foldl
          (fun m i => (List.range w).foldl (fun m j => m.write (i * w + j) (px i j)) m) m)) := by
      intro k hk
      induction k with
      | zero => simpa using ih (by omega)
      | succ k ihk =>
        rw [List.range_succ, List.foldl_append]
        exact Memory.below_write (ihk (by omega)) (by omega) _
    exact key w (Nat.le_refl w)

end Sys2Proof.Machine
end

