-- ==== Sys2Proof/Laws/State.lean ====
section
/-! SUPPORT. What each state update leaves in each field, once and by rfl, so that no proof unfolds a record update. -/

namespace Sys2Proof.Machine

@[simp] theorem State.respond_a0 (s : State) (r : Response) : (s.respond r).a0 = s.a0 := rfl
@[simp] theorem State.respond_a1 (s : State) (r : Response) : (s.respond r).a1 = s.a1 := rfl
@[simp] theorem State.respond_a2 (s : State) (r : Response) : (s.respond r).a2 = s.a2 := rfl
@[simp] theorem State.respond_a3 (s : State) (r : Response) : (s.respond r).a3 = s.a3 := rfl
@[simp] theorem State.respond_res (s : State) (r : Response) : (s.respond r).res = s.res := rfl
@[simp] theorem State.respond_status (s : State) (r : Response) : (s.respond r).status = s.status := rfl
@[simp] theorem State.respond_cause (s : State) (r : Response) : (s.respond r).cause = s.cause := rfl
@[simp] theorem State.respond_fcmd (s : State) (r : Response) : (s.respond r).fcmd = s.fcmd := rfl
@[simp] theorem State.respond_srcW (s : State) (r : Response) : (s.respond r).srcW = s.srcW := rfl
@[simp] theorem State.respond_srcH (s : State) (r : Response) : (s.respond r).srcH = s.srcH := rfl
@[simp] theorem State.respond_dstW (s : State) (r : Response) : (s.respond r).dstW = s.dstW := rfl
@[simp] theorem State.respond_dstH (s : State) (r : Response) : (s.respond r).dstH = s.dstH := rfl
@[simp] theorem State.respond_sumR (s : State) (r : Response) : (s.respond r).sumR = s.sumR := rfl
@[simp] theorem State.respond_sumG (s : State) (r : Response) : (s.respond r).sumG = s.sumG := rfl
@[simp] theorem State.respond_sumB (s : State) (r : Response) : (s.respond r).sumB = s.sumB := rfl
@[simp] theorem State.respond_sumA (s : State) (r : Response) : (s.respond r).sumA = s.sumA := rfl
@[simp] theorem State.respond_count (s : State) (r : Response) : (s.respond r).count = s.count := rfl
@[simp] theorem State.respond_src (s : State) (r : Response) : (s.respond r).src = s.src := rfl
@[simp] theorem State.respond_dst (s : State) (r : Response) : (s.respond r).dst = s.dst := rfl
@[simp] theorem State.respond_maxpix (s : State) (r : Response) : (s.respond r).maxpix = s.maxpix := rfl
@[simp] theorem State.respond_epoch (s : State) (r : Response) : (s.respond r).epoch = s.epoch := rfl
@[simp] theorem State.respond_inputs (s : State) (r : Response) : (s.respond r).inputs = s.inputs := rfl
@[simp] theorem State.respond_responses (s : State) (r : Response) : (s.respond r).responses = s.responses ++ [r] := rfl

@[simp] theorem State.accept_a0 (s : State) (rest : List Input) : (s.accept rest).a0 = s.a0 := rfl
@[simp] theorem State.accept_a1 (s : State) (rest : List Input) : (s.accept rest).a1 = s.a1 := rfl
@[simp] theorem State.accept_a2 (s : State) (rest : List Input) : (s.accept rest).a2 = s.a2 := rfl
@[simp] theorem State.accept_a3 (s : State) (rest : List Input) : (s.accept rest).a3 = s.a3 := rfl
@[simp] theorem State.accept_res (s : State) (rest : List Input) : (s.accept rest).res = s.res := rfl
@[simp] theorem State.accept_status (s : State) (rest : List Input) : (s.accept rest).status = s.status := rfl
@[simp] theorem State.accept_cause (s : State) (rest : List Input) : (s.accept rest).cause = s.cause := rfl
@[simp] theorem State.accept_fcmd (s : State) (rest : List Input) : (s.accept rest).fcmd = s.fcmd := rfl
@[simp] theorem State.accept_srcW (s : State) (rest : List Input) : (s.accept rest).srcW = s.srcW := rfl
@[simp] theorem State.accept_srcH (s : State) (rest : List Input) : (s.accept rest).srcH = s.srcH := rfl
@[simp] theorem State.accept_dstW (s : State) (rest : List Input) : (s.accept rest).dstW = s.dstW := rfl
@[simp] theorem State.accept_dstH (s : State) (rest : List Input) : (s.accept rest).dstH = s.dstH := rfl
@[simp] theorem State.accept_sumR (s : State) (rest : List Input) : (s.accept rest).sumR = s.sumR := rfl
@[simp] theorem State.accept_sumG (s : State) (rest : List Input) : (s.accept rest).sumG = s.sumG := rfl
@[simp] theorem State.accept_sumB (s : State) (rest : List Input) : (s.accept rest).sumB = s.sumB := rfl
@[simp] theorem State.accept_sumA (s : State) (rest : List Input) : (s.accept rest).sumA = s.sumA := rfl
@[simp] theorem State.accept_count (s : State) (rest : List Input) : (s.accept rest).count = s.count := rfl
@[simp] theorem State.accept_src (s : State) (rest : List Input) : (s.accept rest).src = s.src := rfl
@[simp] theorem State.accept_dst (s : State) (rest : List Input) : (s.accept rest).dst = s.dst := rfl
@[simp] theorem State.accept_maxpix (s : State) (rest : List Input) : (s.accept rest).maxpix = s.maxpix := rfl
@[simp] theorem State.accept_epoch (s : State) (rest : List Input) : (s.accept rest).epoch = s.epoch + 1 := rfl
@[simp] theorem State.accept_inputs (s : State) (rest : List Input) : (s.accept rest).inputs = rest := rfl
@[simp] theorem State.accept_responses (s : State) (rest : List Input) : (s.accept rest).responses = s.responses := rfl

@[simp] theorem State.enterFault_a0 (s : State) (c : Cause) (w : Word) : (s.enterFault c w).a0 = s.a0 := rfl
@[simp] theorem State.enterFault_a1 (s : State) (c : Cause) (w : Word) : (s.enterFault c w).a1 = s.a1 := rfl
@[simp] theorem State.enterFault_a2 (s : State) (c : Cause) (w : Word) : (s.enterFault c w).a2 = s.a2 := rfl
@[simp] theorem State.enterFault_a3 (s : State) (c : Cause) (w : Word) : (s.enterFault c w).a3 = s.a3 := rfl
@[simp] theorem State.enterFault_res (s : State) (c : Cause) (w : Word) : (s.enterFault c w).res = s.res := rfl
@[simp] theorem State.enterFault_status (s : State) (c : Cause) (w : Word) : (s.enterFault c w).status = setFault s.status := rfl
@[simp] theorem State.enterFault_cause (s : State) (c : Cause) (w : Word) : (s.enterFault c w).cause = causeCode c := rfl
@[simp] theorem State.enterFault_fcmd (s : State) (c : Cause) (w : Word) : (s.enterFault c w).fcmd = w := rfl
@[simp] theorem State.enterFault_srcW (s : State) (c : Cause) (w : Word) : (s.enterFault c w).srcW = s.srcW := rfl
@[simp] theorem State.enterFault_srcH (s : State) (c : Cause) (w : Word) : (s.enterFault c w).srcH = s.srcH := rfl
@[simp] theorem State.enterFault_dstW (s : State) (c : Cause) (w : Word) : (s.enterFault c w).dstW = s.dstW := rfl
@[simp] theorem State.enterFault_dstH (s : State) (c : Cause) (w : Word) : (s.enterFault c w).dstH = s.dstH := rfl
@[simp] theorem State.enterFault_sumR (s : State) (c : Cause) (w : Word) : (s.enterFault c w).sumR = s.sumR := rfl
@[simp] theorem State.enterFault_sumG (s : State) (c : Cause) (w : Word) : (s.enterFault c w).sumG = s.sumG := rfl
@[simp] theorem State.enterFault_sumB (s : State) (c : Cause) (w : Word) : (s.enterFault c w).sumB = s.sumB := rfl
@[simp] theorem State.enterFault_sumA (s : State) (c : Cause) (w : Word) : (s.enterFault c w).sumA = s.sumA := rfl
@[simp] theorem State.enterFault_count (s : State) (c : Cause) (w : Word) : (s.enterFault c w).count = s.count := rfl
@[simp] theorem State.enterFault_src (s : State) (c : Cause) (w : Word) : (s.enterFault c w).src = s.src := rfl
@[simp] theorem State.enterFault_dst (s : State) (c : Cause) (w : Word) : (s.enterFault c w).dst = s.dst := rfl
@[simp] theorem State.enterFault_maxpix (s : State) (c : Cause) (w : Word) : (s.enterFault c w).maxpix = s.maxpix := rfl
@[simp] theorem State.enterFault_epoch (s : State) (c : Cause) (w : Word) : (s.enterFault c w).epoch = s.epoch := rfl
@[simp] theorem State.enterFault_inputs (s : State) (c : Cause) (w : Word) : (s.enterFault c w).inputs = s.inputs := rfl
@[simp] theorem State.enterFault_responses (s : State) (c : Cause) (w : Word) : (s.enterFault c w).responses = s.responses := rfl

@[simp] theorem State.setAverager_a0 (s : State) (v : Averager) : (s.setAverager v).a0 = s.a0 := rfl
@[simp] theorem State.setAverager_a1 (s : State) (v : Averager) : (s.setAverager v).a1 = s.a1 := rfl
@[simp] theorem State.setAverager_a2 (s : State) (v : Averager) : (s.setAverager v).a2 = s.a2 := rfl
@[simp] theorem State.setAverager_a3 (s : State) (v : Averager) : (s.setAverager v).a3 = s.a3 := rfl
@[simp] theorem State.setAverager_res (s : State) (v : Averager) : (s.setAverager v).res = s.res := rfl
@[simp] theorem State.setAverager_status (s : State) (v : Averager) : (s.setAverager v).status = s.status := rfl
@[simp] theorem State.setAverager_cause (s : State) (v : Averager) : (s.setAverager v).cause = s.cause := rfl
@[simp] theorem State.setAverager_fcmd (s : State) (v : Averager) : (s.setAverager v).fcmd = s.fcmd := rfl
@[simp] theorem State.setAverager_srcW (s : State) (v : Averager) : (s.setAverager v).srcW = s.srcW := rfl
@[simp] theorem State.setAverager_srcH (s : State) (v : Averager) : (s.setAverager v).srcH = s.srcH := rfl
@[simp] theorem State.setAverager_dstW (s : State) (v : Averager) : (s.setAverager v).dstW = s.dstW := rfl
@[simp] theorem State.setAverager_dstH (s : State) (v : Averager) : (s.setAverager v).dstH = s.dstH := rfl
@[simp] theorem State.setAverager_sumR (s : State) (v : Averager) : (s.setAverager v).sumR = toWord v.sr := rfl
@[simp] theorem State.setAverager_sumG (s : State) (v : Averager) : (s.setAverager v).sumG = toWord v.sg := rfl
@[simp] theorem State.setAverager_sumB (s : State) (v : Averager) : (s.setAverager v).sumB = toWord v.sb := rfl
@[simp] theorem State.setAverager_sumA (s : State) (v : Averager) : (s.setAverager v).sumA = toWord v.sa := rfl
@[simp] theorem State.setAverager_count (s : State) (v : Averager) : (s.setAverager v).count = toWord v.n := rfl
@[simp] theorem State.setAverager_src (s : State) (v : Averager) : (s.setAverager v).src = s.src := rfl
@[simp] theorem State.setAverager_dst (s : State) (v : Averager) : (s.setAverager v).dst = s.dst := rfl
@[simp] theorem State.setAverager_maxpix (s : State) (v : Averager) : (s.setAverager v).maxpix = s.maxpix := rfl
@[simp] theorem State.setAverager_epoch (s : State) (v : Averager) : (s.setAverager v).epoch = s.epoch := rfl
@[simp] theorem State.setAverager_inputs (s : State) (v : Averager) : (s.setAverager v).inputs = s.inputs := rfl
@[simp] theorem State.setAverager_responses (s : State) (v : Averager) : (s.setAverager v).responses = s.responses := rfl

@[simp] theorem State.writeDestination_a0 (s : State) (w h : Nat) (px : Nat → Nat → Word) : (s.writeDestination w h px).a0 = s.a0 := rfl
@[simp] theorem State.writeDestination_a1 (s : State) (w h : Nat) (px : Nat → Nat → Word) : (s.writeDestination w h px).a1 = s.a1 := rfl
@[simp] theorem State.writeDestination_a2 (s : State) (w h : Nat) (px : Nat → Nat → Word) : (s.writeDestination w h px).a2 = s.a2 := rfl
@[simp] theorem State.writeDestination_a3 (s : State) (w h : Nat) (px : Nat → Nat → Word) : (s.writeDestination w h px).a3 = s.a3 := rfl
@[simp] theorem State.writeDestination_res (s : State) (w h : Nat) (px : Nat → Nat → Word) : (s.writeDestination w h px).res = s.res := rfl
@[simp] theorem State.writeDestination_status (s : State) (w h : Nat) (px : Nat → Nat → Word) : (s.writeDestination w h px).status = s.status := rfl
@[simp] theorem State.writeDestination_cause (s : State) (w h : Nat) (px : Nat → Nat → Word) : (s.writeDestination w h px).cause = s.cause := rfl
@[simp] theorem State.writeDestination_fcmd (s : State) (w h : Nat) (px : Nat → Nat → Word) : (s.writeDestination w h px).fcmd = s.fcmd := rfl
@[simp] theorem State.writeDestination_srcW (s : State) (w h : Nat) (px : Nat → Nat → Word) : (s.writeDestination w h px).srcW = s.srcW := rfl
@[simp] theorem State.writeDestination_srcH (s : State) (w h : Nat) (px : Nat → Nat → Word) : (s.writeDestination w h px).srcH = s.srcH := rfl
@[simp] theorem State.writeDestination_dstW (s : State) (w h : Nat) (px : Nat → Nat → Word) : (s.writeDestination w h px).dstW = toWord w := rfl
@[simp] theorem State.writeDestination_dstH (s : State) (w h : Nat) (px : Nat → Nat → Word) : (s.writeDestination w h px).dstH = toWord h := rfl
@[simp] theorem State.writeDestination_sumR (s : State) (w h : Nat) (px : Nat → Nat → Word) : (s.writeDestination w h px).sumR = s.sumR := rfl
@[simp] theorem State.writeDestination_sumG (s : State) (w h : Nat) (px : Nat → Nat → Word) : (s.writeDestination w h px).sumG = s.sumG := rfl
@[simp] theorem State.writeDestination_sumB (s : State) (w h : Nat) (px : Nat → Nat → Word) : (s.writeDestination w h px).sumB = s.sumB := rfl
@[simp] theorem State.writeDestination_sumA (s : State) (w h : Nat) (px : Nat → Nat → Word) : (s.writeDestination w h px).sumA = s.sumA := rfl
@[simp] theorem State.writeDestination_count (s : State) (w h : Nat) (px : Nat → Nat → Word) : (s.writeDestination w h px).count = s.count := rfl
@[simp] theorem State.writeDestination_src (s : State) (w h : Nat) (px : Nat → Nat → Word) : (s.writeDestination w h px).src = s.src := rfl
@[simp] theorem State.writeDestination_dst (s : State) (w h : Nat) (px : Nat → Nat → Word) : (s.writeDestination w h px).dst = s.dst.writeImage w h px := rfl
@[simp] theorem State.writeDestination_maxpix (s : State) (w h : Nat) (px : Nat → Nat → Word) : (s.writeDestination w h px).maxpix = s.maxpix := rfl
@[simp] theorem State.writeDestination_epoch (s : State) (w h : Nat) (px : Nat → Nat → Word) : (s.writeDestination w h px).epoch = s.epoch := rfl
@[simp] theorem State.writeDestination_inputs (s : State) (w h : Nat) (px : Nat → Nat → Word) : (s.writeDestination w h px).inputs = s.inputs := rfl
@[simp] theorem State.writeDestination_responses (s : State) (w h : Nat) (px : Nat → Nat → Word) : (s.writeDestination w h px).responses = s.responses := rfl

@[simp] theorem State.takeReset_a0 (s : State) : (s.takeReset).a0 = 0 := rfl
@[simp] theorem State.takeReset_a1 (s : State) : (s.takeReset).a1 = 0 := rfl
@[simp] theorem State.takeReset_a2 (s : State) : (s.takeReset).a2 = 0 := rfl
@[simp] theorem State.takeReset_a3 (s : State) : (s.takeReset).a3 = 0 := rfl
@[simp] theorem State.takeReset_res (s : State) : (s.takeReset).res = 0 := rfl
@[simp] theorem State.takeReset_status (s : State) : (s.takeReset).status = 0 := rfl
@[simp] theorem State.takeReset_cause (s : State) : (s.takeReset).cause = 0 := rfl
@[simp] theorem State.takeReset_fcmd (s : State) : (s.takeReset).fcmd = 0 := rfl
@[simp] theorem State.takeReset_srcW (s : State) : (s.takeReset).srcW = 0 := rfl
@[simp] theorem State.takeReset_srcH (s : State) : (s.takeReset).srcH = 0 := rfl
@[simp] theorem State.takeReset_dstW (s : State) : (s.takeReset).dstW = 0 := rfl
@[simp] theorem State.takeReset_dstH (s : State) : (s.takeReset).dstH = 0 := rfl
@[simp] theorem State.takeReset_sumR (s : State) : (s.takeReset).sumR = 0 := rfl
@[simp] theorem State.takeReset_sumG (s : State) : (s.takeReset).sumG = 0 := rfl
@[simp] theorem State.takeReset_sumB (s : State) : (s.takeReset).sumB = 0 := rfl
@[simp] theorem State.takeReset_sumA (s : State) : (s.takeReset).sumA = 0 := rfl
@[simp] theorem State.takeReset_count (s : State) : (s.takeReset).count = 0 := rfl
@[simp] theorem State.takeReset_src (s : State) : (s.takeReset).src = [] := rfl
@[simp] theorem State.takeReset_dst (s : State) : (s.takeReset).dst = [] := rfl
@[simp] theorem State.takeReset_maxpix (s : State) : (s.takeReset).maxpix = s.maxpix := rfl
@[simp] theorem State.takeReset_epoch (s : State) : (s.takeReset).epoch = s.epoch := rfl
@[simp] theorem State.takeReset_inputs (s : State) : (s.takeReset).inputs = s.inputs := rfl
@[simp] theorem State.takeReset_responses (s : State) : (s.takeReset).responses = s.responses := rfl

@[simp] theorem State.withCommand_a0 (s : State) (w : Word) : (s.withCommand w).a0 = s.a0 := rfl
@[simp] theorem State.withCommand_a1 (s : State) (w : Word) : (s.withCommand w).a1 = s.a1 := rfl
@[simp] theorem State.withCommand_a2 (s : State) (w : Word) : (s.withCommand w).a2 = s.a2 := rfl
@[simp] theorem State.withCommand_a3 (s : State) (w : Word) : (s.withCommand w).a3 = s.a3 := rfl
@[simp] theorem State.withCommand_res (s : State) (w : Word) : (s.withCommand w).res = s.res := rfl
@[simp] theorem State.withCommand_status (s : State) (w : Word) : (s.withCommand w).status = s.status := rfl
@[simp] theorem State.withCommand_cause (s : State) (w : Word) : (s.withCommand w).cause = s.cause := rfl
@[simp] theorem State.withCommand_fcmd (s : State) (w : Word) : (s.withCommand w).fcmd = s.fcmd := rfl
@[simp] theorem State.withCommand_srcW (s : State) (w : Word) : (s.withCommand w).srcW = s.srcW := rfl
@[simp] theorem State.withCommand_srcH (s : State) (w : Word) : (s.withCommand w).srcH = s.srcH := rfl
@[simp] theorem State.withCommand_dstW (s : State) (w : Word) : (s.withCommand w).dstW = s.dstW := rfl
@[simp] theorem State.withCommand_dstH (s : State) (w : Word) : (s.withCommand w).dstH = s.dstH := rfl
@[simp] theorem State.withCommand_sumR (s : State) (w : Word) : (s.withCommand w).sumR = s.sumR := rfl
@[simp] theorem State.withCommand_sumG (s : State) (w : Word) : (s.withCommand w).sumG = s.sumG := rfl
@[simp] theorem State.withCommand_sumB (s : State) (w : Word) : (s.withCommand w).sumB = s.sumB := rfl
@[simp] theorem State.withCommand_sumA (s : State) (w : Word) : (s.withCommand w).sumA = s.sumA := rfl
@[simp] theorem State.withCommand_count (s : State) (w : Word) : (s.withCommand w).count = s.count := rfl
@[simp] theorem State.withCommand_src (s : State) (w : Word) : (s.withCommand w).src = s.src := rfl
@[simp] theorem State.withCommand_dst (s : State) (w : Word) : (s.withCommand w).dst = s.dst := rfl
@[simp] theorem State.withCommand_maxpix (s : State) (w : Word) : (s.withCommand w).maxpix = s.maxpix := rfl
@[simp] theorem State.withCommand_epoch (s : State) (w : Word) : (s.withCommand w).epoch = s.epoch := rfl
@[simp] theorem State.withCommand_inputs (s : State) (w : Word) : (s.withCommand w).inputs = .transaction (.wr 0 w) :: s.inputs := rfl
@[simp] theorem State.withCommand_responses (s : State) (w : Word) : (s.withCommand w).responses = s.responses := rfl

@[simp] theorem State.takeReset_faulted (s : State) : s.takeReset.faulted = false := by
  simp [State.faulted]

@[simp] theorem State.resetWith_faulted (n : Nat) : (State.resetWith n).faulted = false := by
  simp [State.faulted, State.resetWith]

@[simp] theorem State.withFetchWord_eq (s : State) (nbits w : Nat) :
    s.withFetchWord nbits w = s.withCommand (BitVec.ofNat 32 w) := rfl

end Sys2Proof.Machine
end

