-- ==== Sys2Proof/Laws/Exec.lean ====
section
/-! SUPPORT. What a command can do, said once: each command's meaning as cases, and the shapes its next state can have. -/

namespace Sys2Proof.Machine

/-- The four shapes of what a command does besides entering a fault (10_state.md R12). -/
inductive Effect (s : State) : Instr → State → Prop where
  /-- CHAN, PACK, IDX, INB, AAVG write RES -/
  | result {i : Instr} (v : Word) (h : (∃ k, i = .chan k) ∨ i = .pack ∨ i = .idx ∨ i = .inb ∨ i = .aavg) :
      Effect s i { s with res := v }
  /-- ACLR, AING, AINGI write the averager: ACLR makes it fresh, the others ingest one pixel where it is not full; it stays in
  its bounds -/
  | averager {i : Instr} (v : Averager) (h : i = .aclr ∨ i = .aing ∨ i = .aingi)
      (hv : (i = .aclr ∧ v = fresh) ∨ (u s.count ≠ Config.countMax ∧ ∃ p, v = ingest s.averager p))
      (hb : s.AveragerBounds → v.Bounded ∧ v.n ≤ Config.countMax) : Effect s i (s.setAverager v)
  /-- AINGI out of bounds does nothing -/
  | skip : Effect s .aingi s
  /-- SQUASH, CROT, BLUR, EXPAND write the destination, which fits -/
  | destination {i : Instr} (w h : Nat) (px : Nat → Nat → Word)
      (hi : i = .squash ∨ i = .crot ∨ i = .blur ∨ i = .expand) (hfit : w * h ≤ s.maxpix) :
      Effect s i (s.writeDestination w h px)

theorem srcValid_iff {s : State} :
    s.srcValid = true ↔ 1 ≤ u s.srcW ∧ 1 ≤ u s.srcH ∧ u s.srcW * u s.srcH ≤ s.maxpix := by
  simp [State.srcValid]

theorem averager_bounded {s : State} (h : s.AveragerBounds) : s.averager.Bounded :=
  ⟨h.sumR_le, h.sumG_le, h.sumB_le, h.sumA_le⟩

/-- An ingestion into an averager that is not full keeps the bounds. -/
theorem ingest_keeps_bounds {s : State} (hfull : ¬ u s.count = Config.countMax) (p : Word) (h : s.AveragerBounds) :
    (ingest s.averager p).Bounded ∧ (ingest s.averager p).n ≤ Config.countMax := by
  have h1 : u s.count ≤ Config.countMax := h.count_le
  have h2 : (ingest s.averager p).n = u s.count + 1 := rfl
  refine ⟨ingest_bounded (averager_bounded h) p, ?_⟩
  omega

theorem squash_fits {W H xf yf b : Nat} (h : W * H ≤ b) : W / xf * (H / yf) ≤ b :=
  Nat.le_trans (Nat.mul_le_mul (Nat.div_le_self _ _) (Nat.div_le_self _ _)) h

/-- Every command answers a next state: it enters a fault, with its own word in FCMD, or has one of the four effects. -/
theorem exec_cases (i : Instr) (s : State) :
    (∃ c, exec i s = .next (s.enterFault c (encode i))) ∨ (∃ t, exec i s = .next t ∧ Effect s i t) := by
  cases i with
  | chan k => exact .inr ⟨_, rfl, .result _ (.inl ⟨k, rfl⟩)⟩
  | pack =>
    simp only [exec, execPack]
    split
    · exact .inl ⟨_, rfl⟩
    · exact .inr ⟨_, rfl, .result _ (by simp)⟩
  | idx =>
    simp only [exec, execIdx]
    split
    · exact .inl ⟨_, rfl⟩
    · split
      · exact .inl ⟨_, rfl⟩
      · exact .inr ⟨_, rfl, .result _ (by simp)⟩
  | inb => exact .inr ⟨_, rfl, .result _ (by simp)⟩
  | aclr => exact .inr ⟨_, rfl, .averager _ (by simp) (.inl ⟨rfl, rfl⟩) fun _ => ⟨fresh_bounded, by decide⟩⟩
  | aing =>
    simp only [exec, execAing]
    split
    · exact .inl ⟨_, rfl⟩
    · next h => exact .inr ⟨_, rfl, .averager _ (by simp) (.inr ⟨h, _, rfl⟩) (ingest_keeps_bounds h _)⟩
  | aingi =>
    simp only [exec, execAingi]
    split
    · exact .inl ⟨_, rfl⟩
    · split
      · split
        · exact .inl ⟨_, rfl⟩
        · next h => exact .inr ⟨_, rfl, .averager _ (by simp) (.inr ⟨h, _, rfl⟩) (ingest_keeps_bounds h _)⟩
      · exact .inr ⟨_, rfl, .skip⟩
  | aavg => exact .inr ⟨_, rfl, .result _ (by simp)⟩
  | squash =>
    simp only [exec, execSquash]
    split
    · exact .inl ⟨_, rfl⟩
    · next hv =>
      split
      · exact .inl ⟨_, rfl⟩
      · exact .inr ⟨_, rfl, .destination _ _ _ (by simp) (squash_fits (srcValid_iff.1 (by simpa using hv)).2.2)⟩
  | crot =>
    simp only [exec, execCrot]
    split
    · exact .inl ⟨_, rfl⟩
    · next hv => exact .inr ⟨_, rfl, .destination _ _ _ (by simp) (srcValid_iff.1 (by simpa using hv)).2.2⟩
  | blur =>
    simp only [exec, execBlur]
    split
    · exact .inl ⟨_, rfl⟩
    · next hv =>
      split
      · exact .inl ⟨_, rfl⟩
      · exact .inr ⟨_, rfl, .destination _ _ _ (by simp) (srcValid_iff.1 (by simpa using hv)).2.2⟩
  | expand =>
    simp only [exec, execExpand]
    split
    · exact .inl ⟨_, rfl⟩
    · split
      · exact .inl ⟨_, rfl⟩
      · next hfit => exact .inr ⟨_, rfl, .destination _ _ _ (by simp) (by nlinarith)⟩

/-- What `exec` answers, where it is known to answer `t`. -/
theorem exec_next_cases {i : Instr} {s t : State} (h : exec i s = .next t) :
    (∃ c, t = s.enterFault c (encode i)) ∨ Effect s i t := by
  rcases exec_cases i s with ⟨c, hc⟩ | ⟨t', ht', he⟩
  · rw [hc] at h
    exact .inl ⟨c, by injection h with h; exact h.symm⟩
  · rw [ht'] at h
    injection h with h
    exact .inr (h ▸ he)

/-- A fault is entered. -/
@[simp] theorem State.enterFault_faulted (s : State) (c : Cause) (w : Word) : (s.enterFault c w).faulted = true := by
  simp [State.faulted]

/-- No effect touches STATUS, CAUSE or FCMD. -/
theorem Effect.faultRegisters {s t : State} {i : Instr} (h : Effect s i t) :
    t.status = s.status ∧ t.cause = s.cause ∧ t.fcmd = s.fcmd := by
  cases h <;> exact ⟨rfl, rfl, rfl⟩

/-- No effect touches the operands, the source image, or what is the model's own. -/
theorem Effect.frame {s t : State} {i : Instr} (h : Effect s i t) :
    t.a0 = s.a0 ∧ t.a1 = s.a1 ∧ t.a2 = s.a2 ∧ t.a3 = s.a3 ∧ t.srcW = s.srcW ∧ t.srcH = s.srcH ∧ t.src = s.src ∧
      t.maxpix = s.maxpix ∧ t.epoch = s.epoch ∧ t.inputs = s.inputs ∧ t.responses = s.responses := by
  cases h <;> exact ⟨rfl, rfl, rfl, rfl, rfl, rfl, rfl, rfl, rfl, rfl, rfl⟩

end Sys2Proof.Machine
end

