-- ==== Sys2Proof/Laws/Commands.lean ====
section
/-! SUPPORT. The meaning of each command as equations: what it answers where it completes, and the fault it enters where it
does not. Cite these; the meanings need no unfolding. -/

namespace Sys2Proof.Machine

/-- COUNT_MAX is 2^24 (00_scope.md R5). -/
theorem countMax_eq : Config.countMax = 2 ^ 24 := by norm_num [Config.countMax]

/-- A write of RES leaves FAULT alone. (The two states are not compared field by field: `pack` must not be unfolded.) -/
@[simp] theorem State.faulted_setRes (s : State) (v : Word) : ({ s with res := v } : State).faulted = s.faulted := rfl

@[simp] theorem State.faulted_setAverager (s : State) (v : Averager) : (s.setAverager v).faulted = s.faulted := rfl

@[simp] theorem State.faulted_writeDestination (s : State) (w h : Nat) (px : Nat → Nat → Word) :
    (s.writeDestination w h px).faulted = s.faulted := rfl

/-- The index of a coordinate that is not negative (41_mapper.md R65). -/
theorem natCast_index {w : Nat} {row col : Int} (hr : 0 ≤ row) (hc : 0 ≤ col) :
    (index w row col : Int) = row * (w : Int) + col := by
  have : 0 ≤ row * (w : Int) := Int.mul_nonneg hr (Int.natCast_nonneg w)
  unfold index
  omega

/-- PACK completes on four bytes (40_codec.md R63). -/
theorem exec_pack {s : State} (h : u s.a0 ≤ 255 ∧ u s.a1 ≤ 255 ∧ u s.a2 ≤ 255 ∧ u s.a3 ≤ 255) :
    exec .pack s = .next { s with res := pack (u s.a0) (u s.a1) (u s.a2) (u s.a3) } := by
  simp only [exec, execPack]
  rw [if_neg (by omega)]

theorem exec_pack_fault {s : State} (h : u s.a0 > 255 ∨ u s.a1 > 255 ∨ u s.a2 > 255 ∨ u s.a3 > 255) :
    exec .pack s = .next (s.enterFault .badOperand (encode .pack)) := by
  simp only [exec, execPack, raiseFault]
  rw [if_pos h]

/-- IDX completes in its domain, where the index fits (41_mapper.md R67). -/
theorem exec_idx {s : State} (h : 1 ≤ u s.a0 ∧ 0 ≤ sgn s.a1 ∧ 0 ≤ sgn s.a2 ∧ sgn s.a2 < (u s.a0 : Int))
    (hfit : index (u s.a0) (sgn s.a1) (sgn s.a2) < 4294967296) :
    exec .idx s = .next { s with res := toWord (index (u s.a0) (sgn s.a1) (sgn s.a2)) } := by
  simp only [exec, execIdx]
  rw [if_neg (by omega), if_neg (by omega)]

theorem exec_idx_fault {s : State}
    (h : ¬ (1 ≤ u s.a0 ∧ 0 ≤ sgn s.a1 ∧ 0 ≤ sgn s.a2 ∧ sgn s.a2 < (u s.a0 : Int)) ∨
      4294967296 ≤ index (u s.a0) (sgn s.a1) (sgn s.a2)) :
    exec .idx s = .next (s.enterFault .badCoord (encode .idx)) := by
  simp only [exec, execIdx, raiseFault]
  split
  · rfl
  · rw [if_pos (by omega)]

/-- AING completes unless the averager is full (42_averager.md R75). -/
theorem exec_aing {s : State} (h : u s.count ≠ Config.countMax) :
    exec .aing s = .next (s.setAverager (ingest s.averager s.a0)) := by
  simp only [exec, execAing]
  rw [if_neg h]

theorem exec_aing_fault {s : State} (h : u s.count = Config.countMax) :
    exec .aing s = .next (s.enterFault .countOverflow (encode .aing)) := by
  simp only [exec, execAing, raiseFault]
  rw [if_pos h]

/-- The commands that need a valid source image fault without one, before anything else (60_exceptions.md R103). -/
theorem exec_badImage {i : Instr} {s : State} (hi : i = .aingi ∨ i = .squash ∨ i = .crot ∨ i = .blur ∨ i = .expand)
    (h : s.srcValid = false) : exec i s = .next (s.enterFault .badImage (encode i)) := by
  rcases hi with rfl | rfl | rfl | rfl | rfl <;>
    simp [exec, execAingi, execSquash, execCrot, execBlur, execExpand, raiseFault, h]

/-- AINGI ingests the pixel at an in-bounds coordinate (42_averager.md R76). -/
theorem exec_aingi {s : State} (hv : s.srcValid = true)
    (hb : inBounds (u s.srcW) (u s.srcH) (sgn s.a0) (sgn s.a1) = true) (h : u s.count ≠ Config.countMax) :
    exec .aingi s = .next (s.setAverager
      (ingest s.averager (s.srcWord 0 (index (u s.srcW) (sgn s.a0) (sgn s.a1))))) := by
  simp only [exec, execAingi, hv, Bool.not_true, Bool.false_eq_true, if_false]
  rw [if_pos hb, if_neg h]

theorem exec_aingi_fault {s : State} (hv : s.srcValid = true)
    (hb : inBounds (u s.srcW) (u s.srcH) (sgn s.a0) (sgn s.a1) = true) (h : u s.count = Config.countMax) :
    exec .aingi s = .next (s.enterFault .countOverflow (encode .aingi)) := by
  simp only [exec, execAingi, hv, Bool.not_true, Bool.false_eq_true, if_false, raiseFault]
  rw [if_pos hb, if_pos h]

/-- AINGI out of bounds does nothing, full or not (42_averager.md R76). -/
theorem exec_aingi_skip {s : State} (hv : s.srcValid = true)
    (hb : inBounds (u s.srcW) (u s.srcH) (sgn s.a0) (sgn s.a1) = false) : exec .aingi s = .next s := by
  simp only [exec, execAingi, hv, hb, Bool.not_true, Bool.false_eq_true, if_false]

/-- SQUASH by factors that are not zero (43_downsampler.md R82). -/
theorem exec_squash {s : State} (hv : s.srcValid = true) (h : u s.a0 ≠ 0 ∧ u s.a1 ≠ 0) :
    exec .squash s = .next (s.writeDestination (u s.srcW / u s.a0) (u s.srcH / u s.a1) fun i j =>
      squashPx (s.sourceImage (i * (u s.srcW / u s.a0) + j)) (u s.a0) (u s.a1) i j) := by
  simp only [exec, execSquash, hv, Bool.not_true, Bool.false_eq_true, if_false]
  rw [if_neg (by omega)]

theorem exec_squash_fault {s : State} (hv : s.srcValid = true) (h : u s.a0 = 0 ∨ u s.a1 = 0) :
    exec .squash s = .next (s.enterFault .badParam (encode .squash)) := by
  simp only [exec, execSquash, hv, Bool.not_true, Bool.false_eq_true, if_false, raiseFault]
  rw [if_pos h]

/-- CROT of a valid image (44_channel_rotator.md R86). -/
theorem exec_crot {s : State} (hv : s.srcValid = true) :
    exec .crot s = .next (s.writeDestination (u s.srcW) (u s.srcH) fun i j =>
      rot (s.srcWord (i * u s.srcW + j) (i * u s.srcW + j))) := by
  simp only [exec, execCrot, hv, Bool.not_true, Bool.false_eq_true, if_false]

/-- BLUR by a distance that is not negative (45_blur_engine.md R91). -/
theorem exec_blur {s : State} (hv : s.srcValid = true) {d : Nat} (hd : sgn s.a0 = (d : Int)) :
    exec .blur s = .next (s.writeDestination (u s.srcW) (u s.srcH) fun i j =>
      blurPx (s.sourceImage (i * u s.srcW + j)) i j d) := by
  simp only [exec, execBlur, hv, hd, Bool.not_true, Bool.false_eq_true, if_false, Int.toNat_natCast]
  rw [if_neg (by omega)]

theorem exec_blur_fault {s : State} (hv : s.srcValid = true) (hd : sgn s.a0 < 0) :
    exec .blur s = .next (s.enterFault .badParam (encode .blur)) := by
  simp only [exec, execBlur, hv, Bool.not_true, Bool.false_eq_true, if_false, raiseFault]
  rw [if_pos hd]

/-- EXPAND of an image whose double fits (46_bilinear_upsampler.md R96). -/
theorem exec_expand {s : State} (hv : s.srcValid = true) (h : 4 * u s.srcW * u s.srcH ≤ s.maxpix) :
    exec .expand s = .next (s.writeDestination (2 * u s.srcW) (2 * u s.srcH) fun i j =>
      expandPx (s.sourceImage (i * (2 * u s.srcW) + j)) i j) := by
  simp only [exec, execExpand, hv, Bool.not_true, Bool.false_eq_true, if_false]
  rw [if_neg (by omega)]

theorem exec_expand_fault {s : State} (hv : s.srcValid = true) (h : s.maxpix < 4 * u s.srcW * u s.srcH) :
    exec .expand s = .next (s.enterFault .dstOverflow (encode .expand)) := by
  simp only [exec, execExpand, hv, Bool.not_true, Bool.false_eq_true, if_false, raiseFault]
  rw [if_pos h]

/-- The pixel a transform writes at `(i, j)`, read back (10_state.md R17). -/
theorem State.read?_writeDestination_pixel (s : State) {w h i j : Nat} (px : Nat → Nat → Word) (hi : i < h) (hj : j < w) :
    (s.writeDestination w h px).dst.read? (i * w + j) = some (px i j) := by
  have hw : 0 < w := by omega
  have hdiv : (i * w + j) / w = i := by
    rw [Nat.mul_comm, Nat.mul_add_div hw, Nat.div_eq_of_lt hj, Nat.add_zero]
  have hmod : (i * w + j) % w = j := by
    rw [Nat.mul_comm, Nat.mul_add_mod, Nat.mod_eq_of_lt hj]
  simp only [State.writeDestination, Memory.read?_writeImage]
  rw [if_pos (index_lt_of_lt hi hj), hdiv, hmod]

/-- The word at index `k` of the image a transform writes. -/
theorem State.read?_writeDestination_word (s : State) {w h k : Nat} (px : Nat → Nat → Word) (hk : k < w * h) :
    (s.writeDestination w h px).dst.read? k = some (px (k / w) (k % w)) := by
  simp only [State.writeDestination, Memory.read?_writeImage]
  rw [if_pos hk]

/-- A transform leaves every word past its image alone (20_memory.md R46). -/
theorem State.read?_writeDestination_past (s : State) {w h k : Nat} (px : Nat → Nat → Word) (hk : w * h ≤ k) :
    (s.writeDestination w h px).dst.read? k = s.dst.read? k := by
  simp only [State.writeDestination, Memory.read?_writeImage]
  rw [if_neg (by omega)]

/-- A written word is read as it was written. -/
theorem State.srcWord_of_read? {s : State} {m n : Nat} {v : Word} (h : s.src.read? n = some v) : s.srcWord m n = v := by
  simp [State.srcWord, wordOr, h]

end Sys2Proof.Machine
end

