-- ==== Sys2Proof/Laws/Decode.lean ====
section
/-! SUPPORT. The fields of an encoded command. -/

namespace Sys2Proof

/-- The fields of an encoded command are those the encoding gives it (30_encoding.md R53). -/
theorem wordFields_encode (i : Instr) : wordFields (encode i) = i.fields := by
  cases i <;> first | rfl | (rename_i k; cases k <;> rfl)

/-- A word is its three fields put together (30_encoding.md R52). -/
theorem word_eq_fields (w : Word) : (wordZero w ++ wordSel w) ++ wordOp w = w := by
  apply BitVec.eq_of_toNat_eq
  have h := w.isLt
  simp only [wordZero, wordSel, wordOp, BitVec.toNat_append, BitVec.extractLsb'_toNat, Nat.shiftRight_eq_div_pow]
  rw [← Nat.shiftLeft_add_eq_or_of_lt (by omega), ← Nat.shiftLeft_add_eq_or_of_lt (by omega)]
  simp only [Nat.shiftLeft_eq]
  omega

/-- A word that decodes is put together from a zero field, the selector and the opcode of what it decodes to. -/
theorem decode_ok {w : Word} {i : Instr} (h : decode w = .ok i) : encode i = w := by
  have hw := word_eq_fields w
  unfold decode decodeNoSel at h
  split at h
  · simp at h
  · next hz =>
    have hz : wordZero w = 0 := by simpa using hz
    rw [hz] at hw
    rw [← hw]
    generalize wordOp w = op at h ⊢
    generalize wordSel w = sel at h ⊢
    have hch : ∀ sel : BitVec 2, selOfChannel (channelOfSel sel) = sel := by decide
    split at h
    case h_1 hop =>
      cases h
      have : op = 1#4 := BitVec.eq_of_toNat_eq hop
      subst this
      rw [encode, hch]
      rfl
    case h_13 => cases h
    all_goals
      next hop =>
        split at h
        · next hs =>
          cases h
          subst hs
          have hop' : op = BitVec.ofNat 4 op.toNat := by simp
          rw [hop] at hop'
          subst hop'
          rfl
        · cases h

end Sys2Proof
end

