-- ==== Sys2Proof/Laws/PerInstr.lean ====
section
/-! SUPPORT. The family LegalWord, constructor by constructor: every instruction is well formed and its command word is legal. -/

namespace Sys2Proof.Laws.LegalWord

/-- The instruction is well formed, and so are the fields of its command word (30_encoding.md R55). -/
def Statement (i : Instr) : Prop := i.wellFormed = true ∧ (wordFields (encode i)).wellFormed = true

theorem chan (k : Channel) : Statement (.chan k) := by cases k <;> exact ⟨rfl, rfl⟩
theorem pack : Statement .pack := ⟨rfl, rfl⟩
theorem idx : Statement .idx := ⟨rfl, rfl⟩
theorem inb : Statement .inb := ⟨rfl, rfl⟩
theorem aclr : Statement .aclr := ⟨rfl, rfl⟩
theorem aing : Statement .aing := ⟨rfl, rfl⟩
theorem aingi : Statement .aingi := ⟨rfl, rfl⟩
theorem aavg : Statement .aavg := ⟨rfl, rfl⟩
theorem squash : Statement .squash := ⟨rfl, rfl⟩
theorem crot : Statement .crot := ⟨rfl, rfl⟩
theorem blur : Statement .blur := ⟨rfl, rfl⟩
theorem expand : Statement .expand := ⟨rfl, rfl⟩

end Sys2Proof.Laws.LegalWord
end

