-- ==== Sys2Proof/Laws/Step.lean ====
section
/-! SUPPORT. What a step can do, said once. -/

namespace Sys2Proof.Machine

/-- With no input pending the block waits. -/
theorem step_idle {s : State} (h : s.inputs = []) : step s = .next s := by
  simp [step, takeInput, h]

theorem step_reset {s : State} {rest : List Input} (h : s.inputs = .reset :: rest) :
    step s = .next (s.accept rest).takeReset := by
  simp [step, takeInput, h]

theorem step_read {s : State} {rest : List Input} {a : Word} (h : s.inputs = .transaction (.rd a) :: rest) :
    step s = hostRead a (s.accept rest) := by
  simp [step, takeInput, transact, h]

theorem step_write {s : State} {rest : List Input} {a d : Word} (h : s.inputs = .transaction (.wr a d) :: rest) :
    step s = hostWrite a d (s.accept rest) := by
  simp [step, takeInput, transact, h]

@[simp] theorem State.accept_faulted (s : State) (rest : List Input) : (s.accept rest).faulted = s.faulted := rfl

/-- A write of `w` to CMD in the not-faulted state runs `w` as a command and answers OK (20_memory.md R37). -/
theorem step_command {s : State} {rest : List Input} {w : Word} (h : s.inputs = .transaction (.wr 0 w) :: rest)
    (hf : s.faulted = false) : step s = thenDo (runCommand w (s.accept rest)) (·.respond .ok) := by
  rw [step_write h, hostWrite, if_neg (by simp [hf])]
  rfl

/-- What is done after an outcome that is chosen by a condition is done in both branches. -/
theorem thenDo_ite (c : Prop) [Decidable c] (a b : Host.Outcome State Fault Refusal) (f : State → State) :
    thenDo (if c then a else b) f = if c then thenDo a f else thenDo b f := by
  split <;> rfl

/-- What a host write does, besides running a command: it is refused, or it stores to one place. -/
inductive Stored (s : State) : State → Prop where
  | refused : Stored s (s.respond .err)
  | a0 (d : Word) : Stored s ({ s with a0 := d }.respond .ok)
  | a1 (d : Word) : Stored s ({ s with a1 := d }.respond .ok)
  | a2 (d : Word) : Stored s ({ s with a2 := d }.respond .ok)
  | a3 (d : Word) : Stored s ({ s with a3 := d }.respond .ok)
  | srcW (d : Word) : Stored s ({ s with srcW := d }.respond .ok)
  | srcH (d : Word) : Stored s ({ s with srcH := d }.respond .ok)
  | src (n : Nat) (d : Word) (h : n < s.maxpix) : Stored s ({ s with src := s.src.write n d }.respond .ok)
  | dst (n : Nat) (d : Word) (h : n < s.maxpix) : Stored s ({ s with dst := s.dst.write n d }.respond .ok)

/-- The places the address map gives: inside the memories (20_memory.md R32 to R36). -/
theorem locate_lt {b : Nat} {a : Word} {n : Nat} (h : locate b a = some (.src n) ∨ locate b a = some (.dst n)) : n < b := by
  unfold locate at h
  split at h
  · simp at h
  · split at h <;> simp at h; omega
  · split at h <;> simp at h; omega
  · simp at h

theorem locate_cmd {b : Nat} {a : Word} (h : locate b a = some (.reg .cmd)) : a = 0 := by
  have hr : haddrRegion a = 0 := by
    unfold locate at h
    split at h
    · assumption
    · split at h <;> simp at h
    · split at h <;> simp at h
    · simp at h
  simp only [locate, hr, Option.map_eq_some_iff] at h
  obtain ⟨r, hr', hrc⟩ := h
  have ho : haddrOffset a = 0 := by
    unfold regAt at hr'
    split at hr' <;> simp_all
  have : u a = 0 := by
    unfold haddrRegion at hr
    unfold haddrOffset at ho
    omega
  exact BitVec.eq_of_toNat_eq this

/-- A host write either stores, or writes to CMD in the not-faulted state. -/
theorem hostWrite_cases (a d : Word) (s : State) :
    (∃ t, hostWrite a d s = .next t ∧ Stored s t) ∨
    (a = 0 ∧ s.faulted = false ∧ hostWrite a d s = thenDo (runCommand d s) (·.respond .ok)) := by
  unfold hostWrite
  split
  · exact .inl ⟨_, rfl, .refused⟩
  · next hf =>
    split
    · exact .inl ⟨_, rfl, .refused⟩
    · next r hl =>
      cases r
      case cmd => exact .inr ⟨locate_cmd hl, by simpa using hf, rfl⟩
      all_goals exact .inl ⟨_, rfl, by constructor⟩
    · next n hl => exact .inl ⟨_, rfl, .src n d (locate_lt (.inl hl))⟩
    · next n hl => exact .inl ⟨_, rfl, .dst n d (locate_lt (.inr hl))⟩

/-- A host read only answers. -/
theorem hostRead_cases (a : Word) (s : State) : ∃ r, hostRead a s = .next (s.respond r) := by
  unfold hostRead
  split
  · exact ⟨_, rfl⟩
  · exact ⟨_, rfl⟩

/-- What a command word does: it is illegal and faults, or it is a command and that command faults or has its effect. -/
theorem runCommand_cases (w : Word) (s : State) :
    (∃ c, runCommand w s = .next (s.enterFault c w)) ∨
    (∃ i t, decode w = .ok i ∧ runCommand w s = .next t ∧
      ((∃ c, t = s.enterFault c (encode i)) ∨ Effect s i t)) := by
  unfold runCommand
  split
  · next i hi =>
    refine .inr ?_
    rcases exec_cases i s with ⟨c, hc⟩ | ⟨t, ht, he⟩
    · exact ⟨i, _, hi, hc, .inl ⟨c, rfl⟩⟩
    · exact ⟨i, t, hi, ht, .inr he⟩
  · exact .inl ⟨_, rfl⟩

/-- Everything a step can do. -/
inductive StepCase (s : State) : State → Prop where
  | idle (h : s.inputs = []) : StepCase s s
  | reset (rest : List Input) (h : s.inputs = .reset :: rest) : StepCase s (s.accept rest).takeReset
  | read (rest : List Input) (a : Word) (r : Response) (h : s.inputs = .transaction (.rd a) :: rest) :
      StepCase s ((s.accept rest).respond r)
  | store (rest : List Input) (a d : Word) (t : State) (h : s.inputs = .transaction (.wr a d) :: rest)
      (hs : Stored (s.accept rest) t) : StepCase s t
  | fault (rest : List Input) (w : Word) (c : Cause) (h : s.inputs = .transaction (.wr 0 w) :: rest)
      (hf : s.faulted = false) : StepCase s (((s.accept rest).enterFault c w).respond .ok)
  | command (rest : List Input) (w : Word) (i : Instr) (t : State) (h : s.inputs = .transaction (.wr 0 w) :: rest)
      (hf : s.faulted = false) (hi : decode w = .ok i) (he : Effect (s.accept rest) i t) : StepCase s (t.respond .ok)

/-- Every step answers a next state, and is one of these cases. -/
theorem step_cases (s : State) : ∃ t, step s = .next t ∧ StepCase s t := by
  match h : s.inputs with
  | [] => exact ⟨s, step_idle h, .idle h⟩
  | .reset :: rest => exact ⟨_, step_reset h, .reset rest h⟩
  | .transaction (.rd a) :: rest =>
    obtain ⟨r, hr⟩ := hostRead_cases a (s.accept rest)
    exact ⟨_, (step_read h).trans hr, .read rest a r h⟩
  | .transaction (.wr a d) :: rest =>
    rcases hostWrite_cases a d (s.accept rest) with ⟨t, ht, hs⟩ | ⟨rfl, hf, hw⟩
    · exact ⟨t, (step_write h).trans ht, .store rest a d t h hs⟩
    · rw [step_write h, hw]
      rcases runCommand_cases d (s.accept rest) with ⟨c, hc⟩ | ⟨i, t, hi, ht, ⟨c, rfl⟩ | he⟩
      · exact ⟨_, by rw [hc]; rfl, .fault rest d c h hf⟩
      · refine ⟨_, by rw [ht]; rfl, ?_⟩
        have : encode i = d := decode_ok hi
        exact this ▸ .fault rest d c h hf
      · exact ⟨_, by rw [ht]; rfl, .command rest d i t h hf hi he⟩

/-- What a step answers, where it is known to answer `t`. -/
theorem step_next_cases {s t : State} (h : step s = .next t) : StepCase s t := by
  obtain ⟨t', ht', hc⟩ := step_cases s
  rw [ht'] at h
  injection h with h
  exact h ▸ hc

end Sys2Proof.Machine
end

