-- ==== Sys2Proof/Tests/Slice0.lean ====
section
/-! SUPPORT. Tests of single decodings, commands and steps, and witnesses of the statements' hypotheses. Expected values are
those of spec/95_test_vectors.md (their identifiers stand in the comments), or worked by hand from the rule that is named. -/

open Sys2Proof Sys2Proof.Machine Sys2Proof.Statements

namespace Sys2Proof.Tests

/-- What holds of the next state; nothing holds where the machine stops. -/
def after {α : Type} (o : Host.Outcome State Fault Refusal) (f : State → α) : Option α :=
  match o with
  | .next t => some (f t)
  | .fault _ => none
  | .refused _ => none

/-- A fault as the vectors of 95_test_vectors.md write it: STATUS, CAUSE, FCMD. -/
def faultOf (t : State) : Word × Word × Word := (t.status, t.cause, t.fcmd)

/-- The averager as the vectors write it. -/
def avgOf (t : State) : Nat × Nat × Nat × Nat × Nat :=
  (t.sumR.toNat, t.sumG.toNat, t.sumB.toNat, t.sumA.toNat, t.count.toNat)

/-- The destination descriptor and the words of DST. -/
def dstOf (t : State) : Word × Word × Memory := (t.dstW, t.dstH, t.dst)

/-- A small block after reset: 16 words in each memory. -/
def fresh16 : State := State.resetWith 16

/-- Image I22 of 95_test_vectors.md section 7. -/
def i22 : State :=
  { fresh16 with srcW := 2, srcH := 2,
                 src := [(0, 0x10203040), (1, 0x50607080), (2, 0x90A0B0C0), (3, 0xD0E0F0FF)] }

/-- Image I33 of 95_test_vectors.md section 7. -/
def i33 : State :=
  { fresh16 with srcW := 3, srcH := 3,
                 src := [(0, 0x0A01FE01), (1, 0x1402FD00), (2, 0x1E03FC01), (3, 0x2804FB00), (4, 0x3205FA01),
                   (5, 0x3C06F900), (6, 0x4607F801), (7, 0x5008F700), (8, 0x5A09F601)] }

/-- A full averager (A13): COUNT = 2^24, sums 0. -/
def full : State := { i22 with count := 0x01000000 }

/-- A block that has faulted: SQUASH with a zero factor (program P6). -/
def broken : State := { i22 with status := 1, cause := 5, fcmd := 9, a1 := 1 }

/-- The next input is a write. -/
def withWrite (s : State) (haddr data : Word) : State := { s with inputs := [.transaction (.wr haddr data)] }

/-- The next input is a read. -/
def withRead (s : State) (haddr : Word) : State := { s with inputs := [.transaction (.rd haddr)] }

/-- The answer of the next input, with the rest of the state the test does not look at. -/
def answerOf (s : State) : Option (List Response) := after (step s) (·.responses)

-- Decoding: words written out from 30_encoding.md R52 and R53, `zero` then `sel` then `op`

theorem test_decode_chan_red : decode 0b00000000000000000000000000_00_0001#32 = .ok (.chan .red) := by decide
theorem test_decode_chan_green : decode 0b00000000000000000000000000_01_0001#32 = .ok (.chan .green) := by decide
theorem test_decode_chan_blue : decode 0b00000000000000000000000000_10_0001#32 = .ok (.chan .blue) := by decide
theorem test_decode_chan_alpha : decode 0b00000000000000000000000000_11_0001#32 = .ok (.chan .alpha) := by decide
theorem test_decode_pack : decode 0b00000000000000000000000000_00_0010#32 = .ok .pack := by decide
theorem test_decode_idx : decode 0b00000000000000000000000000_00_0011#32 = .ok .idx := by decide
theorem test_decode_inb : decode 0b00000000000000000000000000_00_0100#32 = .ok .inb := by decide
theorem test_decode_aclr : decode 0b00000000000000000000000000_00_0101#32 = .ok .aclr := by decide
theorem test_decode_aing : decode 0b00000000000000000000000000_00_0110#32 = .ok .aing := by decide
theorem test_decode_aingi : decode 0b00000000000000000000000000_00_0111#32 = .ok .aingi := by decide
theorem test_decode_aavg : decode 0b00000000000000000000000000_00_1000#32 = .ok .aavg := by decide
theorem test_decode_squash : decode 0b00000000000000000000000000_00_1001#32 = .ok .squash := by decide
theorem test_decode_crot : decode 0b00000000000000000000000000_00_1010#32 = .ok .crot := by decide
theorem test_decode_blur : decode 0b00000000000000000000000000_00_1011#32 = .ok .blur := by decide
theorem test_decode_expand : decode 0b00000000000000000000000000_00_1100#32 = .ok .expand := by decide

/-- 95_test_vectors.md section 9: each illegal word with the reason it is rejected by. -/
theorem test_decode_illegal :
    [0x00000000#32, 0x0000000D#32, 0x0000000E#32, 0x0000000F#32, 0x00000010#32].map decode =
      List.replicate 5 (.error .reservedOpcode) ∧
    [0x00000012#32, 0x0000001C#32, 0x0000003C#32, 0x0000002A#32].map decode =
      List.replicate 4 (.error .selectorNotZero) ∧
    [0x00000040#32, 0x00000041#32, 0x00000100#32, 0x80000001#32, 0xFFFFFFFF#32].map decode =
      List.replicate 5 (.error .zeroFieldNotZero) := by decide

/-- "Of the 256 words with bits 31:8 zero exactly 15 are legal" (95_test_vectors.md section 9). -/
theorem test_fifteen_legal_words :
    (List.range 256).filter (fun n => (decodeTableWord 32 n).isSome) =
      [1, 2, 3, 4, 5, 6, 7, 8, 9, 10, 11, 12, 17, 33, 49] := by decide

theorem test_encode_round_trip : decode (encode (.chan .blue)) = .ok (.chan .blue) ∧ decode (encode .blur) = .ok .blur := by
  decide

-- WellFormed: each check refuses a term

theorem test_wellFormed_legal : ({ zero := 0, sel := 2, op := 1 } : CommandFields).wellFormed = true := by decide
theorem test_wellFormed_zero_field : ({ zero := 1, sel := 0, op := 1 } : CommandFields).wellFormed = false := by decide
theorem test_wellFormed_reserved_opcode :
    ({ zero := 0, sel := 0, op := 0xD } : CommandFields).wellFormed = false := by decide
theorem test_wellFormed_selector : ({ zero := 0, sel := 1, op := 2 } : CommandFields).wellFormed = false := by decide

-- Commands

/-- K2 -/
theorem test_chan_green : after (exec (.chan .green) { fresh16 with a0 := 0x12345678 }) (·.res) = some 0x34 := by decide
/-- K7 -/
theorem test_pack : after (exec .pack { fresh16 with a0 := 0xAA, a1 := 0xBB, a2 := 0xCC, a3 := 0xDD }) (·.res) =
    some 0xAABBCCDD := by decide
/-- K15: 256 is not masked. -/
theorem test_pack_bad_operand : after (exec .pack { fresh16 with a3 := 0x100 }) faultOf = some (1, 2, 2) := by decide
/-- M5: the largest index. -/
theorem test_idx_largest : after (exec .idx { fresh16 with a0 := 0x80000000, a1 := 1, a2 := 0x7FFFFFFF }) (·.res) =
    some 0xFFFFFFFF := by decide
/-- M9a: the index is 2^32. -/
theorem test_idx_does_not_fit : after (exec .idx { fresh16 with a0 := 0x80000000, a1 := 2 }) faultOf = some (1, 3, 3) := by
  decide
/-- M21: width and height are unsigned. -/
theorem test_inb_unsigned_size : after (exec .inb { fresh16 with
    a0 := 0x80000000, a1 := 0x80000000, a2 := 0x7FFFFFFF, a3 := 0x7FFFFFFF }) (·.res) = some 1 := by decide
/-- M15: column -1. -/
theorem test_inb_signed_column : after (exec .inb { fresh16 with a0 := 8, a1 := 4, a3 := 0xFFFFFFFF, res := 7 }) (·.res) =
    some 0 := by decide
/-- A11 -/
theorem test_aclr : after (exec .aclr { fresh16 with sumR := 5, sumG := 7, sumB := 9, sumA := 11, count := 2 }) avgOf =
    some (0, 0, 0, 0, 0) := by decide
/-- A2 -/
theorem test_aing : after (exec .aing { fresh16 with
    a0 := 0x03040506, sumR := 2, sumG := 3, sumB := 4, sumA := 5, count := 1 }) avgOf = some (5, 7, 9, 11, 2) := by decide
/-- A18: the last legal ingestion. -/
theorem test_aing_last : after (exec .aing { fresh16 with a0 := 0xFFFFFFFF, count := 0x00FFFFFF }) avgOf =
    some (255, 255, 255, 255, 16777216) := by decide
/-- A9 -/
theorem test_aingi : after (exec .aingi { i22 with a0 := 1, a1 := 1 }) avgOf = some (208, 224, 240, 255, 1) := by decide
/-- A14: out of bounds on a full averager. -/
theorem test_aingi_skip : after (exec .aingi { full with a0 := 5 }) (fun t => (faultOf t, avgOf t)) =
    some ((0, 0, 0), (0, 0, 0, 0, 16777216)) := by decide
/-- A3 -/
theorem test_aavg : after (exec .aavg { fresh16 with sumR := 5, sumG := 7, sumB := 9, sumA := 11, count := 2 }) (·.res) =
    some 0x02030405 := by decide
/-- A8: zero count. -/
theorem test_aavg_zero_count : after (exec .aavg { fresh16 with res := 7 }) (·.res) = some 0 := by decide
/-- By hand from 43_downsampler.md R81 on I33: rows {0}, columns {0}, with the remainder strips left out. -/
theorem test_squash : after (exec .squash { i33 with a0 := 2, a1 := 1 }) dstOf =
    some (1, 3, [(0, 0x0A01FE01), (1, 0x2804FB00), (2, 0x4607F801)]) := by decide
/-- S11 on I22: a zero factor, with nothing written. -/
theorem test_squash_bad_param : after (exec .squash { i22 with a1 := 1 }) (fun t => (faultOf t, dstOf t)) =
    some ((1, 5, 9), (0, 0, [])) := by decide
/-- C3 -/
theorem test_crot : after (exec .crot i22) dstOf =
    some (2, 2, [(0, 0x30102040), (1, 0x70506080), (2, 0xB090A0C0), (3, 0xF0D0E0FF)]) := by decide
/-- B4 -/
theorem test_blur : after (exec .blur { i33 with a0 := 1 }) dstOf =
    some (3, 3, [(0, 0x1E03FC00), (1, 0x2303FB00), (2, 0x2804FB00), (3, 0x2D04FA00), (4, 0x3205FA00), (5, 0x3705F900),
      (6, 0x3C06F900), (7, 0x4106F800), (8, 0x4607F800)]) := by decide
/-- B2: the largest distance. -/
theorem test_blur_largest_distance : after (exec .blur { i22 with a0 := 0x7FFFFFFF }) (·.dst) =
    some [(0, 0x7080909F), (1, 0x7080909F), (2, 0x7080909F), (3, 0x7080909F)] := by decide
/-- X1, the first two rows, and X6 -/
theorem test_expand : after (exec .expand i22) (fun t => (t.dstW, t.dstH, t.dst.take 8)) =
    some (4, 4, [(0, 0x10203040), (1, 0x30405060), (2, 0x50607080), (3, 0x50607080), (4, 0x50607080), (5, 0x7080909F),
      (6, 0x90A0B0BF), (7, 0x90A0B0BF)]) := by decide
/-- X7 -/
theorem test_expand_dst_overflow : after (exec .expand { i22 with maxpix := 15 }) (fun t => (faultOf t, dstOf t)) =
    some ((1, 6, 12), (0, 0, [])) := by decide
/-- S17: the product of the sides is not wrapped. -/
theorem test_bad_image_product : after (exec .crot { fresh16 with srcW := 0x10000, srcH := 0x10000 }) faultOf =
    some (1, 4, 10) := by decide

-- Transactions (95_test_vectors.md section 10, with 16 words in place of 2^20)

theorem test_read_cmd : answerOf (withRead fresh16 0) = some [.err] := by decide
theorem test_read_status : answerOf (withRead fresh16 1) = some [.okValue 0] := by decide
theorem test_write_count : answerOf (withWrite fresh16 0x14 0) = some [.err] := by decide
theorem test_read_undefined_offset : answerOf (withRead fresh16 0x3FFFFFFF) = some [.err] := by decide
theorem test_write_last_src : after (step (withWrite fresh16 0x4000000F 1)) (fun t => (t.responses, t.src)) =
    some ([.ok], [(15, 1)]) := by decide
theorem test_write_past_src : after (step (withWrite fresh16 0x40000010 1)) (fun t => (t.responses, t.src)) =
    some ([.err], []) := by decide
theorem test_read_region_3 : answerOf (withRead fresh16 0xC0000000) = some [.err] := by decide
theorem test_illegal_command : after (step (withWrite fresh16 0 0x80000001)) (fun t => (t.responses, faultOf t)) =
    some ([.ok], (1, 1, 0x80000001)) := by decide
/-- P6, transactions 19, 18 -/
theorem test_faulted_write : after (step (withWrite broken 8 1)) (fun t => (t.responses, t.a0)) = some ([.err], 0) := by
  decide
theorem test_faulted_read : answerOf (withRead broken 3) = some [.okValue 9] := by decide
theorem test_reset : after (step { broken with inputs := [.reset] }) (fun t => (faultOf t, t.srcW, t.src, t.responses)) =
    some ((0, 0, 0), 0, [], []) := by decide
theorem test_idle : step fresh16 = .next fresh16 := rfl
/-- The host's entry: a table word placed as the next command is executed by the very next step (K4). -/
theorem test_withFetchWord : after (step (({ fresh16 with a0 := 0x12345678 } : State).withFetchWord 32 0x31)) (·.res) =
    some 0x78 := by decide

-- The assembler

/-- P5, transactions 26 to 28 -/
theorem test_assemble_aingi : assembleLine "AINGI -1, 0           ; row -1 out of bounds: no-op".toList =
    some [.wr 8 0xFFFFFFFF, .wr 9 0, .wr 0 7] := by decide
/-- P2, transaction 35 -/
theorem test_assemble_wr : assembleLine "WR DST[4], 0xDEADBEEF".toList = some [.wr 0x80000004 0xDEADBEEF] := by decide
/-- P1, transactions 7 to 15 -/
theorem test_assemble_unpack : assembleLine "UNPACK 0xAABBCCDD".toList =
    some [.wr 8 0xAABBCCDD, .wr 0 1, .rd 4, .wr 0 0x11, .rd 4, .wr 0 0x21, .rd 4, .wr 0 0x31, .rd 4] := by decide
/-- The digit forms that log 18 chooses: both cases of letters, no `_` grouping. -/
theorem test_assemble_digit_forms : readWord "0xDeadBEEF".toList = some 0xDEADBEEF ∧
    readWord "0xDEAD_BEEF".toList = none ∧ readWord "007".toList = some 7 := by decide
/-- The lines log 18 chooses to accept with no transaction. -/
theorem test_assemble_no_transaction : assembleLine [] = some [] ∧ assembleLine "  ; only a comment".toList = some [] := by
  decide
theorem test_assemble_unknown : assembleLine "FOO 1".toList = none := by decide
/-- A run of a script from a state: AING 5 is two transactions (P3). -/
theorem test_withScript : after (step (fresh16.withScript (expandLine (.aing 5)))) (fun t => (t.a0, t.inputs)) =
    some (5, [.transaction (.wr 0 6)]) := by decide
/-- 20_memory.md R33: the haddr of a register is its offset, in both directions. -/
theorem test_regAt_regOffset (r : Reg) : regAt (regOffset r) = some r := by cases r <;> rfl

-- Witnesses: for every statement with hypotheses a state and operands that meet all of them together, clause by clause

/-- The invariant of a reset block. -/
theorem inv_fresh16 : fresh16.Inv where
  maxpix_pos := by decide
  maxpix_le := by decide
  averager := ⟨by decide, by decide, by decide, by decide, by decide⟩
  faultRegs := ⟨.inl rfl, by decide, by decide, fun _ => rfl⟩
  memories := ⟨by decide, by decide, by decide, by decide⟩
  dst_fits := by decide

/-- The invariant with an image loaded. -/
theorem inv_i22 : i22.Inv where
  maxpix_pos := by decide
  maxpix_le := by decide
  averager := ⟨by decide, by decide, by decide, by decide, by decide⟩
  faultRegs := ⟨.inl rfl, by decide, by decide, fun _ => rfl⟩
  memories := ⟨by decide, by decide, by decide, by decide⟩
  dst_fits := by decide

theorem bounds_full : full.AveragerBounds := ⟨by decide, by decide, by decide, by decide, by decide⟩

theorem bounds_i22 : i22.AveragerBounds := ⟨by decide, by decide, by decide, by decide, by decide⟩

theorem valid_i22 : validSource i22 := ⟨by decide, by decide, by decide⟩

theorem not_valid_fresh16 : ¬ validSource fresh16 := fun h => absurd h.1 (by decide)

theorem witness_DecodeAndEncodeAgree :
    (Instr.chan .alpha).wellFormed = true ∧ decode 0x31#32 = .ok (.chan .alpha) := by decide

theorem witness_IllegalWordsFault : (∃ e, decode 0xFFFFFFFF#32 = .error e) ∧ fresh16.faulted = false ∧
    (withWrite fresh16 0 0xFFFFFFFF).inputs = .transaction (.wr 0 0xFFFFFFFF) :: [] :=
  ⟨⟨.zeroFieldNotZero, by decide⟩, by decide, rfl⟩

theorem witness_PseudoInstructionsExpand : ([0x11223344#32, 7#32] : List Word)[1]? = some 7#32 := rfl

theorem witness_StepRunsDecodedCommand : (withWrite i22 0 0xB).inputs = .transaction (.wr 0 0xB) :: [] ∧
    (withWrite i22 0 0xB).faulted = false ∧ decode 0xB = .ok .blur := ⟨rfl, by decide, by decide⟩

theorem witness_EveryTransactionGetsOneResponse :
    (withWrite i22 8 1).inputs = .transaction (.wr 8 1) :: [] ∧ ¬ notDefined i22.maxpix (.wr 8 1) ∧
    notDefined i22.maxpix (.rd 0) ∧ broken.faulted = true := by
  refine ⟨rfl, ?_, .inr rfl, by decide⟩
  rintro ((h | h | h) | h) <;> revert h <;> decide

/-- Each of the five conditions of 20_memory.md R36 at the ends of its range. -/
theorem witness_UndefinedTransactionChangesNothing :
    notDefined 16 (.rd 0xC0000000) ∧ notDefined 16 (.rd 0xFFFFFFFF) ∧
    notDefined 16 (.wr 0x40000010 1) ∧ notDefined 16 (.rd 0xBFFFFFFF) ∧
    notDefined 16 (.rd 5) ∧ notDefined 16 (.rd 0x15) ∧ notDefined 16 (.wr 0x3FFFFFFF 0) ∧
    notDefined 16 (.wr 1 0) ∧ notDefined 16 (.wr 0x14 0) ∧ notDefined 16 (.rd 0) :=
  ⟨.inl (.inl (by decide)), .inl (.inl (by decide)), .inl (.inr (.inl (by decide))), .inl (.inr (.inl (by decide))),
    .inl (.inr (.inr (by decide))), .inl (.inr (.inr (by decide))), .inl (.inr (.inr (by decide))),
    .inr (by decide), .inr (by decide), .inr rfl⟩

/-- The first and the last word of each memory, a register, a legal command and an illegal one. -/
theorem witness_DefinedWritesStore : fresh16.faulted = false ∧ 15 < fresh16.maxpix ∧
    (0x4000000F#32).toNat = 0x40000000 + 15 ∧ (0x80000000#32).toNat = 0x80000000 + 0 ∧
    (withWrite fresh16 0x0D 5).inputs = .transaction (.wr 0x0D 5) :: [] ∧
    decode 0x1#32 = .ok (.chan .red) ∧ decode 0x0#32 = .error .reservedOpcode := by
  refine ⟨by decide, by decide, by decide, by decide, rfl, by decide, by decide⟩

theorem witness_DefinedReadsAnswerCurrentValue :
    (withRead i22 0x14).inputs = .transaction (.rd (BitVec.ofNat 32 0x14)) :: [] ∧
    (withRead i22 0x40000003).inputs = .transaction (.rd (BitVec.ofNat 32 (0x40000000 + 3))) :: [] ∧
    i22.src.read? 3 = some 0xD0E0F0FF ∧ i22.dst.read? 0 = none ∧ 15 < i22.maxpix := ⟨rfl, rfl, by decide, rfl, by decide⟩

theorem witness_FaultedStateRefusesEveryWrite : (withWrite broken 8 1).faulted = true ∧
    (withWrite broken 8 1).inputs = .transaction (.wr 8 1) :: [] ∧
    (withRead broken 3).inputs = .transaction (.rd (BitVec.ofNat 32 3)) :: [] := ⟨by decide, rfl, rfl⟩

theorem witness_WrittenWordReadsBack :
    let s : State := { fresh16 with inputs := [.transaction (.wr 0x8000000F 7), .transaction (.rd 0x8000000F)] }
    s.faulted = false ∧ 15 < s.maxpix ∧
      ∃ t t', step s = .next t ∧ step t = .next t' := ⟨by decide, by decide, _, _, rfl, rfl⟩

theorem witness_ResetInputGivesResetState :
    ({ broken with inputs := [.reset] } : State).inputs = .reset :: [] := rfl

/-- Both ends of the range of 00_scope.md R4. -/
theorem witness_InvariantHoldsAtReset : 1 ≤ 1 ∧ 1 ≤ 16777216 ∧ 16777216 ≤ Config.maxpixLimit := by decide

theorem witness_InvariantKeptByEveryStep : fresh16.Inv ∧ step fresh16 = .next fresh16 := ⟨inv_fresh16, rfl⟩

theorem witness_OnlyResetLeavesTheFaultedState : (withWrite broken 8 1).faulted = true ∧
    (∃ t, step (withWrite broken 8 1) = .next t) ∧ ¬ resetNext (withWrite broken 8 1) ∧
    ({ broken with inputs := [.reset] } : State).faulted = true ∧ resetNext { broken with inputs := [.reset] } := by
  refine ⟨by decide, ⟨_, rfl⟩, ?_, by decide, [], rfl⟩
  rintro ⟨rest, h⟩
  simp [withWrite] at h

theorem witness_CommandsLeaveOperandsAndSource : ∃ t, exec .crot i22 = .next t := ⟨_, rfl⟩

theorem witness_CommandsNeverReadDestination : ∃ t, exec .expand i22 = .next t := ⟨_, rfl⟩

theorem witness_OnlyFiveCommandsWriteRes :
    ∃ t, step (withWrite { fresh16 with a0 := 0x12345678 } 0 1) = .next t ∧ t.res ≠ fresh16.res :=
  ⟨_, rfl, by decide⟩

theorem witness_OnlyThreeCommandsWriteTheAverager :
    ∃ t, step (withWrite { fresh16 with a0 := 0x12345678 } 0 6) = .next t ∧ t.count ≠ fresh16.count :=
  ⟨_, rfl, by decide⟩

theorem witness_OnlyTransformsWriteTheDestinationDescriptor :
    ∃ t, step (withWrite i22 0 10) = .next t ∧ (t.dstW, t.dstH) ≠ (i22.dstW, i22.dstH) := ⟨_, rfl, by decide⟩

theorem witness_FaultRegistersChangeOnlyOnFaultEntry :
    ∃ t, step (withWrite fresh16 0 10) = .next t ∧
      (t.status, t.cause, t.fcmd) ≠ (fresh16.status, fresh16.cause, fresh16.fcmd) := ⟨_, rfl, by decide⟩

theorem witness_FaultsArePrecise : fresh16.faulted = false ∧ ∃ t, exec .crot fresh16 = .next t ∧ t.faulted = true :=
  ⟨by decide, _, rfl, by decide⟩

theorem witness_FaultsDoNotDependOnPixels :
    ∃ t t', exec .blur i22 = .next t ∧ exec .blur { i22 with src := [(0, 1)], dst := [(3, 9)] } = .next t' :=
  ⟨_, _, rfl, rfl⟩

/-- For each command with preconditions, a state that meets them and one that does not, at the boundary. -/
theorem witness_CommandsAreTotalOverTheirPreconditions : i22.faulted = false ∧
    precondition { i22 with a0 := 255, a1 := 255, a2 := 255, a3 := 255 } .pack ∧ ¬ precondition { i22 with a3 := 256 } .pack ∧
    precondition { i22 with a0 := 0x80000000, a1 := 1, a2 := 0x7FFFFFFF } .idx ∧ ¬ precondition i22 .idx ∧
    precondition i22 .aing ∧ ¬ precondition full .aing ∧
    precondition i22 .aingi ∧ precondition { full with a0 := 5 } .aingi ∧ ¬ precondition full .aingi ∧
    precondition { i22 with a0 := 1, a1 := 1 } .squash ∧ ¬ precondition i22 .squash ∧
    precondition i22 .crot ∧ ¬ precondition fresh16 .crot ∧
    precondition i22 .blur ∧ ¬ precondition { i22 with a0 := 0xFFFFFFFF } .blur ∧
    precondition i22 .expand ∧ ¬ precondition { i22 with maxpix := 15 } .expand := by
  refine ⟨by decide, ?_⟩
  simp only [precondition, validSource]
  refine ⟨?_, ?_, ?_, ?_, ?_, ?_, ?_, ?_, ?_, ?_, ?_, ?_, ?_, ?_, ?_, ?_, ?_⟩ <;> decide

theorem witness_FaultTable : fresh16.faulted = false ∧ (∃ t, exec .expand fresh16 = .next t ∧ t.faulted = true) ∧
    (6 : Word) ∈ mayRaise .expand := ⟨by decide, ⟨_, rfl, by decide⟩, by decide⟩

theorem witness_TransformsIgnoreAveragerAndRes :
    Instr.expand = .squash ∨ Instr.expand = .crot ∨ Instr.expand = .blur ∨ Instr.expand = .expand := by decide

theorem witness_ChanWritesChannel : (0x31#32).toNat % 16 = 1 ∧ (0x41#32).toNat % 16 = 1 := by decide

/-- 255 and 256 in each operand. -/
theorem witness_PackWritesPixelOrFaults :
    (let s : State := { fresh16 with a0 := 255, a1 := 0, a2 := 255, a3 := 255 }
     s.a0.toNat ≤ 255 ∧ s.a1.toNat ≤ 255 ∧ s.a2.toNat ≤ 255 ∧ s.a3.toNat ≤ 255) ∧
    (let s : State := { fresh16 with a2 := 256 }
     s.a0.toNat > 255 ∨ s.a1.toNat > 255 ∨ s.a2.toNat > 255 ∨ s.a3.toNat > 255) := by decide

/-- M5 (the last index that fits) and M9a (the first that does not). -/
theorem witness_IdxWritesIndexOrFaults :
    (let s : State := { fresh16 with a0 := 0x80000000, a1 := 1, a2 := 0x7FFFFFFF }
     1 ≤ s.a0.toNat ∧ 0 ≤ s.a1.toInt ∧ 0 ≤ s.a2.toInt ∧ s.a2.toInt < (s.a0.toNat : Int) ∧
       s.a1.toInt * (s.a0.toNat : Int) + s.a2.toInt < 4294967296) ∧
    (let s : State := { fresh16 with a0 := 0x80000000, a1 := 2 }
     4294967296 ≤ s.a1.toInt * (s.a0.toNat : Int) + s.a2.toInt) ∧
    (let s : State := { fresh16 with a0 := 8, a2 := 8 }
     (s.a0.toNat : Int) ≤ s.a2.toInt) := by decide

/-- M12 and M14. -/
theorem witness_InbWritesBoundsCheck :
    (let s : State := { fresh16 with a0 := 8, a1 := 4, a2 := 3, a3 := 7 }
     0 ≤ s.a2.toInt ∧ s.a2.toInt < (s.a1.toNat : Int) ∧ 0 ≤ s.a3.toInt ∧ s.a3.toInt < (s.a0.toNat : Int)) ∧
    (let s : State := { fresh16 with a0 := 8, a1 := 4, a3 := 8 }
     ¬ (0 ≤ s.a2.toInt ∧ s.a2.toInt < (s.a1.toNat : Int) ∧ 0 ≤ s.a3.toInt ∧ s.a3.toInt < (s.a0.toNat : Int))) := by
  decide

theorem witness_AclrClearsTheAverager :
    ∃ t, (withWrite full 0 5).AveragerBounds ∧ step (withWrite full 0 5) = .next t ∧ t.count.toNat < full.count.toNat :=
  ⟨_, ⟨by decide, by decide, by decide, by decide, by decide⟩, rfl, by decide⟩

/-- One below the limit, and at it. -/
theorem witness_AingIngestsOrFaults : ({ i22 with count := 0x00FFFFFF } : State).AveragerBounds ∧
    ({ i22 with count := 0x00FFFFFF } : State).count.toNat ≠ 16777216 ∧
    full.AveragerBounds ∧ full.count.toNat = 16777216 :=
  ⟨⟨by decide, by decide, by decide, by decide, by decide⟩, by decide, bounds_full, by decide⟩

/-- No image; a valid one with the coordinate past its last row; its last pixel with a full averager and with an empty one. -/
theorem witness_AingiIngestsSkipsOrFaults : fresh16.AveragerBounds ∧ ¬ validSource fresh16 ∧
    i22.AveragerBounds ∧ full.AveragerBounds ∧ validSource i22 ∧ validSource full ∧
    (let s : State := { full with a0 := 2 }
     ¬ (0 ≤ s.a0.toInt ∧ s.a0.toInt < (s.srcH.toNat : Int) ∧ 0 ≤ s.a1.toInt ∧ s.a1.toInt < (s.srcW.toNat : Int))) ∧
    (let s : State := { full with a0 := 1, a1 := 1 }
     s.a0.toInt = ((1 : Nat) : Int) ∧ s.a1.toInt = ((1 : Nat) : Int) ∧ 1 < s.srcH.toNat ∧ 1 < s.srcW.toNat ∧
       s.count.toNat = 16777216 ∧ i22.count.toNat ≠ 16777216) :=
  ⟨inv_fresh16.averager, not_valid_fresh16, bounds_i22, bounds_full, valid_i22, valid_i22, by decide, by decide⟩

theorem witness_AavgWritesTheAverage : fresh16.AveragerBounds ∧ fresh16.count.toNat = 0 ∧
    full.AveragerBounds ∧ full.count.toNat ≠ 0 := ⟨inv_fresh16.averager, by decide, bounds_full, by decide⟩

/-- No image; a zero factor; factors that leave one pixel; its only pixel; factors that leave none. -/
theorem witness_SquashSamplesOrFaults : ¬ validSource fresh16 ∧ validSource i22 ∧ i22.a0.toNat = 0 ∧
    (let s : State := { i22 with a0 := 2, a1 := 2 }
     1 ≤ s.a0.toNat ∧ 1 ≤ s.a1.toNat ∧ 0 < s.srcH.toNat / s.a1.toNat ∧ 0 < s.srcW.toNat / s.a0.toNat ∧
       s.src.read? (0 * s.a1.toNat * s.srcW.toNat + 0 * s.a0.toNat) = some 0x10203040) ∧
    (let s : State := { i22 with a0 := 0xFFFFFFFF, a1 := 1 }
     1 ≤ s.a0.toNat ∧ s.srcW.toNat / s.a0.toNat = 0) :=
  ⟨not_valid_fresh16, valid_i22, by decide, by decide, by decide⟩

theorem witness_CrotRotatesOrFaults : ¬ validSource fresh16 ∧ validSource i22 ∧
    3 < i22.srcW.toNat * i22.srcH.toNat ∧ i22.src.read? 3 = some 0xD0E0F0FF :=
  ⟨not_valid_fresh16, valid_i22, by decide, by decide⟩

/-- No image; distance -1; distance 2^31 - 1; the last pixel; a reading of the source. -/
theorem witness_BlurAveragesTheNeighborhoodOrFaults : ¬ validSource fresh16 ∧ validSource i22 ∧
    ({ i22 with a0 := 0xFFFFFFFF } : State).a0.toInt < 0 ∧
    ({ i22 with a0 := 0x7FFFFFFF } : State).a0.toInt = ((2147483647 : Nat) : Int) ∧
    1 < i22.srcH.toNat ∧ 1 < i22.srcW.toNat ∧ readsSource i22 (i22.srcWord 0) :=
  ⟨not_valid_fresh16, valid_i22, by decide, by decide, by decide, by decide,
    fun _ _ h => State.srcWord_of_read? h⟩

/-- No image; four times the pixels one more than DST holds; exactly what it holds; the last source pixel. -/
theorem witness_ExpandAveragesCandidatesOrFaults : ¬ validSource fresh16 ∧ validSource { i22 with maxpix := 15 } ∧
    (let s : State := { i22 with maxpix := 15 }
     s.maxpix < 4 * s.srcW.toNat * s.srcH.toNat) ∧
    validSource i22 ∧ 4 * i22.srcW.toNat * i22.srcH.toNat ≤ i22.maxpix ∧ 1 < i22.srcH.toNat ∧ 1 < i22.srcW.toNat :=
  ⟨not_valid_fresh16, ⟨by decide, by decide, by decide⟩, by decide, valid_i22, by decide, by decide, by decide⟩

theorem witness_CodecRoundTrip : 0 ≤ 255 ∧ 255 ≤ 255 := by decide

/-- The last pixel of an 8 by 4 image (M12). -/
theorem witness_GuardedIndexIsInsideTheImage : inBounds 8 4 3 7 = true ∧ 8 * 4 ≤ 16777216 := by decide

theorem witness_AverageIsTheTruncatedMean : ([1#32, 2#32] : List Word) ≠ [] ∧
    ([1#32, 2#32] : List Word).Perm [2#32, 1#32] := ⟨by decide, .swap _ _ _⟩

theorem witness_BlurClosedForm : validSource { i22 with a0 := 5 } ∧
    ({ i22 with a0 := 5 } : State).a0.toInt = ((5 : Nat) : Int) ∧ 1 < i22.srcH.toNat ∧ 1 < i22.srcW.toNat :=
  ⟨valid_i22, by decide, by decide, by decide⟩

theorem witness_BlurWindowIsWholeNeighborhood : 1 < (i22.sourceImage 0).h ∧ 1 < (i22.sourceImage 0).w := by decide

theorem witness_BlurAtDistanceZeroCopies : validSource i22 ∧ i22.a0 = 0 ∧ 3 < i22.srcW.toNat * i22.srcH.toNat ∧
    i22.src.read? 3 = some 0xD0E0F0FF := ⟨valid_i22, rfl, by decide, by decide⟩

theorem witness_SquashByOneCopies : validSource { i22 with a0 := 1, a1 := 1 } ∧
    ({ i22 with a0 := 1, a1 := 1 } : State).a0 = 1 ∧ ({ i22 with a0 := 1, a1 := 1 } : State).a1 = 1 ∧
    3 < i22.srcW.toNat * i22.srcH.toNat ∧ i22.src.read? 3 = some 0xD0E0F0FF :=
  ⟨valid_i22, rfl, rfl, by decide, by decide⟩

/-- The last pixel of a 4 by 4 destination. -/
theorem witness_ExpandCandidateCounts : 3 < 2 * 2 := by decide

theorem witness_ExpandSizeAndEvenCopies : i22.maxpix ≤ Config.maxpixLimit ∧ validSource i22 ∧
    4 * i22.srcW.toNat * i22.srcH.toNat ≤ i22.maxpix ∧ 1 < i22.srcH.toNat ∧ 1 < i22.srcW.toNat ∧
    i22.src.read? (1 * i22.srcW.toNat + 1) = some 0xD0E0F0FF :=
  ⟨by decide, valid_i22, by decide, by decide, by decide, by decide⟩

theorem witness_SquashUndoesExpand : i22.maxpix ≤ Config.maxpixLimit ∧ validSource i22 ∧
    4 * i22.srcW.toNat * i22.srcH.toNat ≤ i22.maxpix ∧ 3 < i22.srcW.toNat * i22.srcH.toNat ∧
    i22.src.read? 3 = some 0xD0E0F0FF := ⟨by decide, valid_i22, by decide, by decide, by decide⟩

theorem witness_CrotThreeTimesRestoresTheImage : validSource i22 ∧ 3 < i22.srcW.toNat * i22.srcH.toNat ∧
    i22.src.read? 3 = some 0xD0E0F0FF := ⟨valid_i22, by decide, by decide⟩

end Sys2Proof.Tests
end

section
/-! The state after reset (10_state.md R23). -/

namespace Sys2Proof.Machine
open Sys2Proof.Statements

@[simp] theorem State.resetWith_src (n : Nat) : (State.resetWith n).src = [] := rfl
@[simp] theorem State.resetWith_dst (n : Nat) : (State.resetWith n).dst = [] := rfl

/-- 10_state.md R23 for a block of any size: MAXPIX enters neither the registers nor the content of the memories. -/
theorem isResetState_resetWith (n : Nat) : isResetState (State.resetWith n) := by
  have srcUnwritten (k : Nat) : (State.resetWith n).src.read? k = none := by
    rw [State.resetWith_src, Memory.read?_nil]
  have dstUnwritten (k : Nat) : (State.resetWith n).dst.read? k = none := by
    rw [State.resetWith_dst, Memory.read?_nil]
  refine ⟨?operandsAndResult, ?faultRegisters, ?descriptors, ?averager, fun k => ⟨srcUnwritten k, dstUnwritten k⟩⟩
  case operandsAndResult => exact ⟨rfl, rfl, rfl, rfl, rfl⟩
  case faultRegisters => exact ⟨rfl, rfl, rfl⟩
  case descriptors => exact ⟨rfl, rfl, rfl, rfl⟩
  case averager => exact ⟨rfl, rfl, rfl, rfl, rfl⟩

/-- Settles O14: the reset state of every memory size is as specified, and `State.reset` is the one of the suggested size. -/
theorem resetStateIsAsSpecified : Obligations.ResetStateIsAsSpecified :=
  ⟨isResetState_resetWith, isResetState_resetWith Config.maxpixSuggested⟩

end Sys2Proof.Machine
end

section
/-! The address map of the host port (20_memory.md R32 to R36): what `locate` gives, as equivalences on the address. -/

namespace Sys2Proof.Machine
open Sys2Proof.Statements

/-- The registers in the order of the rows of 20_memory.md R33. -/
def allRegs : List Reg :=
  [.cmd, .status, .cause, .fcmd, .res, .a0, .a1, .a2, .a3, .srcW, .srcH, .dstW, .dstH, .sumR, .sumG, .sumB, .sumA, .count]

/-- The registers the host may only read (20_memory.md R33). -/
def readOnlyRegs : List Reg := [.status, .cause, .fcmd, .res, .dstW, .dstH, .sumR, .sumG, .sumB, .sumA, .count]

theorem mem_allRegs (r : Reg) : r ∈ allRegs := by cases r <;> decide

theorem regAt_eq_some_iff {n : Nat} {r : Reg} : regAt n = some r ↔ regOffset r = n := by
  constructor
  · intro h
    unfold regAt at h
    split at h <;> cases h <;> rfl
  · rintro rfl
    cases r <;> rfl

theorem regAt_eq_none_iff {n : Nat} : regAt n = none ↔ n ∉ allRegs.map regOffset := by
  simp [Option.eq_none_iff_forall_ne_some, regAt_eq_some_iff, mem_allRegs]

theorem regOffset_lt (r : Reg) : regOffset r < 1073741824 := by cases r <;> decide

/-- An address is its region and its offset (20_memory.md R32). -/
theorem u_eq_region_offset (a : Word) : u a = haddrRegion a * 1073741824 + haddrOffset a := by
  unfold haddrRegion haddrOffset
  omega

theorem haddrRegion_cases (a : Word) :
    haddrRegion a = 0 ∨ haddrRegion a = 1 ∨ haddrRegion a = 2 ∨ haddrRegion a = 3 := by
  have := u_lt a
  unfold haddrRegion
  omega

theorem haddr_of_u {a : Word} {k n : Nat} (h : u a = k * 1073741824 + n) (hn : n < 1073741824) :
    haddrRegion a = k ∧ haddrOffset a = n := by
  unfold haddrRegion haddrOffset
  omega

theorem locate_region0 {b : Nat} {a : Word} (h : haddrRegion a = 0) : locate b a = (regAt (haddrOffset a)).map .reg := by
  simp [locate, h]

theorem locate_region1 {b : Nat} {a : Word} (h : haddrRegion a = 1) :
    locate b a = if haddrOffset a < b then some (.src (haddrOffset a)) else none := by
  simp [locate, h]

theorem locate_region2 {b : Nat} {a : Word} (h : haddrRegion a = 2) :
    locate b a = if haddrOffset a < b then some (.dst (haddrOffset a)) else none := by
  simp [locate, h]

theorem locate_region3 {b : Nat} {a : Word} (h : haddrRegion a = 3) : locate b a = none := by
  simp [locate, h]

/-- The haddr of a register is its offset (20_memory.md R33). -/
theorem locate_eq_reg_iff {b : Nat} {a : Word} {r : Reg} : locate b a = some (.reg r) ↔ regOffset r = u a := by
  have hr := regOffset_lt r
  have ha := u_eq_region_offset a
  obtain h | h | h | h := haddrRegion_cases a
  · have hu : u a = haddrOffset a := by omega
    simp [locate_region0 h, regAt_eq_some_iff, hu]
  · have hne : regOffset r ≠ u a := by omega
    simp [locate_region1 h, hne]
  · have hne : regOffset r ≠ u a := by omega
    simp [locate_region2 h, hne]
  · have hne : regOffset r ≠ u a := by omega
    simp [locate_region3 h, hne]

/-- The SRC window (20_memory.md R34). -/
theorem locate_src {b n : Nat} {a : Word} (ha : u a = 0x40000000 + n) (hb : n < b) (hn : n < 1073741824) :
    locate b a = some (.src n) := by
  obtain ⟨hregion, hoffset⟩ := haddr_of_u (k := 1) ha hn
  rw [locate_region1 hregion, hoffset, if_pos hb]

/-- The DST window (20_memory.md R35). -/
theorem locate_dst {b n : Nat} {a : Word} (ha : u a = 0x80000000 + n) (hb : n < b) (hn : n < 1073741824) :
    locate b a = some (.dst n) := by
  obtain ⟨hregion, hoffset⟩ := haddr_of_u (k := 2) ha hn
  rw [locate_region2 hregion, hoffset, if_pos hb]

theorem undefinedAddress_iff {b : Nat} {a : Word} : undefinedAddress b a ↔
    haddrRegion a = 3 ∨ ((haddrRegion a = 1 ∨ haddrRegion a = 2) ∧ b ≤ haddrOffset a) ∨
      (haddrRegion a = 0 ∧ haddrOffset a ∉ allRegs.map regOffset) := Iff.rfl

/-- Conditions 1 to 3 of 20_memory.md R36: the address names nothing. -/
theorem locate_eq_none_iff {b : Nat} {a : Word} : locate b a = none ↔ undefinedAddress b a := by
  rw [undefinedAddress_iff]
  obtain h | h | h | h := haddrRegion_cases a
  · rw [locate_region0 h, Option.map_eq_none_iff, regAt_eq_none_iff]
    simp [h]
  · simp [locate_region1 h, h]
  · simp [locate_region2 h, h]
  · simp [locate_region3 h, h]

/-- A read is not defined where the address names nothing, or names CMD (20_memory.md R36, condition 5). -/
theorem notDefined_rd_iff {b : Nat} {a : Word} :
    notDefined b (.rd a) ↔ locate b a = none ∨ locate b a = some (.reg .cmd) := by
  rw [locate_eq_none_iff, locate_eq_reg_iff]
  exact or_congr_right eq_comm

/-- A write is not defined where the address names nothing, or names a read-only register (20_memory.md R36, condition 4). -/
theorem notDefined_wr_iff {b : Nat} {a d : Word} :
    notDefined b (.wr a d) ↔ locate b a = none ∨ ∃ r ∈ readOnlyRegs, locate b a = some (.reg r) := by
  simp only [locate_eq_none_iff, locate_eq_reg_iff]
  exact or_congr_right (List.mem_map (l := readOnlyRegs) (f := regOffset))

end Sys2Proof.Machine
end

section
/-! Transactions: what a read and a write of a location answer, and when they are refused (20_memory.md R31, R36 to R39). -/

namespace Sys2Proof.Machine
open Sys2Proof.Statements

theorem State.readReg_eq_none_iff {s : State} {r : Reg} : s.readReg r = none ↔ r = .cmd := by
  cases r <;> simp [State.readReg]

theorem State.readValue_of_reg {s : State} {a : Word} {r : Reg} (h : locate s.maxpix a = some (.reg r)) :
    s.readValue a = s.readReg r := by
  simp [State.readValue, h]

theorem State.readValue_of_src {s : State} {a : Word} {n : Nat} (h : locate s.maxpix a = some (.src n)) :
    s.readValue a = some (s.srcWord 0 n) := by
  simp [State.readValue, h]

theorem State.readValue_of_dst {s : State} {a : Word} {n : Nat} (h : locate s.maxpix a = some (.dst n)) :
    s.readValue a = some (s.dstWord n) := by
  simp [State.readValue, h]

/-- A read has no value exactly where it is not defined. -/
theorem State.readValue_eq_none_iff {s : State} {a : Word} : s.readValue a = none ↔ notDefined s.maxpix (.rd a) := by
  rw [notDefined_rd_iff]
  cases hl : locate s.maxpix a with
  | none => simp [State.readValue, hl]
  | some l =>
    cases l with
    | reg r => simp [State.readValue_of_reg hl, State.readReg_eq_none_iff]
    | src n => simp [State.readValue_of_src hl]
    | dst n => simp [State.readValue_of_dst hl]

/-- A written word of DST is read as it was written. -/
theorem State.dstWord_of_read? {s : State} {n : Nat} {v : Word} (h : s.dst.read? n = some v) : s.dstWord n = v := by
  simp [State.dstWord, wordOr, h]

theorem hostRead_of_value {s : State} {a v : Word} (h : s.readValue a = some v) :
    hostRead a s = .next (s.respond (.okValue v)) := by
  simp [hostRead, h]

theorem hostRead_undefined {s : State} {a : Word} (h : notDefined s.maxpix (.rd a)) :
    hostRead a s = .next (s.respond .err) := by
  simp [hostRead, State.readValue_eq_none_iff.2 h]

/-- A write to a read-only register is answered ERR (20_memory.md R36, condition 4). -/
theorem writeReg_readOnly {r : Reg} (h : r ∈ readOnlyRegs) (d : Word) (s : State) :
    writeReg r d s = .next (s.respond .err) := by
  unfold readOnlyRegs at h
  fin_cases h <;> rfl

/-- A command word leaves the port's two lists alone: the response comes after it. -/
theorem runCommand_next (w : Word) (s : State) :
    ∃ t, runCommand w s = .next t ∧ t.responses = s.responses ∧ t.inputs = s.inputs := by
  obtain ⟨c, hc⟩ | ⟨i, t, -, ht, ⟨c, rfl⟩ | he⟩ := runCommand_cases w s
  · exact ⟨_, hc, rfl, rfl⟩
  · exact ⟨_, ht, rfl, rfl⟩
  · obtain ⟨-, -, -, -, -, -, -, -, -, hinputs, hresponses⟩ := he.frame
    exact ⟨t, ht, hresponses, hinputs⟩

/-- A write to CMD or to a read-write register is answered OK, once. -/
theorem writeReg_writable {r : Reg} (h : r ∉ readOnlyRegs) (d : Word) (s : State) :
    ∃ t : State, writeReg r d s = .next (t.respond .ok) ∧ t.responses = s.responses ∧ t.inputs = s.inputs := by
  cases r
  case cmd =>
    obtain ⟨t, ht, hport⟩ := runCommand_next d s
    exact ⟨t, by rw [writeReg, ht, thenDo], hport⟩
  case a0 | a1 | a2 | a3 | srcW | srcH => exact ⟨_, rfl, rfl, rfl⟩
  all_goals exact absurd (by decide) h

theorem hostWrite_faulted {s : State} (hf : s.faulted = true) (a d : Word) : hostWrite a d s = .next (s.respond .err) := by
  simp [hostWrite, hf]

theorem hostWrite_none {s : State} {a : Word} (hf : s.faulted = false) (h : locate s.maxpix a = none) (d : Word) :
    hostWrite a d s = .next (s.respond .err) := by
  simp [hostWrite, hf, h]

theorem hostWrite_reg {s : State} {a : Word} {r : Reg} (hf : s.faulted = false)
    (h : locate s.maxpix a = some (.reg r)) (d : Word) : hostWrite a d s = writeReg r d s := by
  simp [hostWrite, hf, h]

theorem hostWrite_src {s : State} {a : Word} {n : Nat} (hf : s.faulted = false)
    (h : locate s.maxpix a = some (.src n)) (d : Word) :
    hostWrite a d s = .next ({ s with src := s.src.write n d }.respond .ok) := by
  simp [hostWrite, hf, h]

theorem hostWrite_dst {s : State} {a : Word} {n : Nat} (hf : s.faulted = false)
    (h : locate s.maxpix a = some (.dst n)) (d : Word) :
    hostWrite a d s = .next ({ s with dst := s.dst.write n d }.respond .ok) := by
  simp [hostWrite, hf, h]

theorem hostWrite_undefined {s : State} {a d : Word} (h : notDefined s.maxpix (.wr a d)) :
    hostWrite a d s = .next (s.respond .err) := by
  cases hf : s.faulted
  case true => exact hostWrite_faulted hf a d
  case false =>
    obtain hl | ⟨r, hr, hl⟩ := notDefined_wr_iff.1 h
    · exact hostWrite_none hf hl d
    · rw [hostWrite_reg hf hl, writeReg_readOnly hr]

/-- A defined write in the not-faulted state is answered OK, once, also where it runs a command that faults. -/
theorem hostWrite_defined {s : State} {a d : Word} (hf : s.faulted = false) (h : ¬ notDefined s.maxpix (.wr a d)) :
    ∃ t : State, hostWrite a d s = .next (t.respond .ok) ∧ t.responses = s.responses ∧ t.inputs = s.inputs := by
  rw [notDefined_wr_iff, not_or] at h
  obtain ⟨hsome, hwritable⟩ := h
  cases hl : locate s.maxpix a with
  | none => exact absurd hl hsome
  | some l =>
    cases l with
    | reg r =>
      rw [hostWrite_reg hf hl]
      exact writeReg_writable (fun hr => hwritable ⟨r, hr, hl⟩) d s
    | src n => exact ⟨_, hostWrite_src hf hl d, rfl, rfl⟩
    | dst n => exact ⟨_, hostWrite_dst hf hl d, rfl, rfl⟩

theorem runCommand_ok {w : Word} {i : Instr} (h : decode w = .ok i) (s : State) : runCommand w s = exec i s := by
  simp [runCommand, h]

theorem runCommand_error {w : Word} {e : IllegalWord} (h : decode w = .error e) (s : State) :
    runCommand w s = .next (s.enterFault .illegalCmd w) := by
  simp [runCommand, h, raiseFault]

/-- `exec` answers a next state, whatever the command (60_exceptions.md R104: a fault is a next state). -/
theorem exec_next (i : Instr) (s : State) : ∃ t, exec i s = .next t := by
  obtain ⟨c, hc⟩ | ⟨t, ht, -⟩ := exec_cases i s
  · exact ⟨_, hc⟩
  · exact ⟨t, ht⟩

/-- ERR is the response to what is not defined, and to every write in the faulted state (20_memory.md R31). -/
def refused (s : State) (t : Txn) : Prop := notDefined s.maxpix t ∨ (s.faulted = true ∧ ∃ a d, t = .wr a d)

/-- A refused transaction is answered ERR and does nothing else. -/
theorem step_refused {s : State} {t : Txn} {rest : List Input} (hin : s.inputs = .transaction t :: rest)
    (h : refused s t) : step s = .next (answered s rest .err) := by
  obtain hnd | ⟨hf, a, d, rfl⟩ := h
  · cases t with
    | wr a d => exact (step_write hin).trans (hostWrite_undefined hnd)
    | rd a => exact (step_read hin).trans (hostRead_undefined hnd)
  · exact (step_write hin).trans (hostWrite_faulted (s := s.accept rest) hf a d)

/-- A read that has a value answers it and changes nothing, in the faulted state too (20_memory.md R38). -/
theorem step_read_value {s : State} {rest : List Input} {a v : Word} (hin : s.inputs = .transaction (.rd a) :: rest)
    (h : (s.accept rest).readValue a = some v) : step s = .next (answered s rest (.okValue v)) :=
  (step_read hin).trans (hostRead_of_value h)

theorem step_read_defined {s : State} {rest : List Input} {a : Word} (hin : s.inputs = .transaction (.rd a) :: rest)
    (h : ¬ notDefined s.maxpix (.rd a)) : ∃ v, step s = .next (answered s rest (.okValue v)) := by
  cases hv : (s.accept rest).readValue a with
  | none => exact absurd (State.readValue_eq_none_iff.1 hv) h
  | some v => exact ⟨v, step_read_value hin hv⟩

theorem step_write_reg {s : State} {rest : List Input} {a d : Word} {r : Reg}
    (hin : s.inputs = .transaction (.wr a d) :: rest) (hf : s.faulted = false) (ha : regOffset r = u a) :
    step s = writeReg r d (s.accept rest) :=
  (step_write hin).trans (hostWrite_reg (s := s.accept rest) hf (locate_eq_reg_iff.2 ha) d)

/-- The readable registers are those that have a value, at their offsets (20_memory.md R33). -/
theorem readableRegisters_eq (s : State) :
    readableRegisters s = allRegs.filterMap fun r => (s.readReg r).map (regOffset r, ·) := rfl

end Sys2Proof.Machine
end

section
/-! The statements of the family 20_memory.md. -/

namespace Sys2Proof.Machine
open Sys2Proof.Statements

/-- Settles O8: a refused transaction is answered ERR with nothing changed; any other is a defined read, or a defined write
in the not-faulted state. -/
theorem everyTransactionGetsOneResponse : Obligations.EveryTransactionGetsOneResponse := by
  intro s t rest hin
  by_cases hr : refused s t
  · exact ⟨_, .err, step_refused hin hr, rfl, rfl, iff_of_true rfl hr, fun _ => rfl, fun _ _ => .inl rfl,
      fun _ _ _ => .inl rfl⟩
  · cases t with
    | rd a =>
      obtain ⟨v, hv⟩ := step_read_defined hin fun h => hr (.inl h)
      exact ⟨_, .okValue v, hv, rfl, rfl, iff_of_false nofun hr, nofun, fun _ _ => .inr ⟨v, rfl⟩, nofun⟩
    | wr a d =>
      have hf : s.faulted = false := Bool.eq_false_iff.2 fun h => hr (.inr ⟨h, a, d, rfl⟩)
      obtain ⟨t', ht, hresponses, hinputs⟩ :=
        hostWrite_defined (s := s.accept rest) (a := a) (d := d) hf fun h => hr (.inl h)
      exact ⟨_, .ok, (step_write hin).trans ht, congrArg (· ++ [Response.ok]) hresponses, hinputs, iff_of_false nofun hr,
        nofun, nofun, fun _ _ _ => .inr rfl⟩

/-- Settles O9: a transaction that is not defined is refused. -/
theorem undefinedTransactionChangesNothing : Obligations.UndefinedTransactionChangesNothing :=
  fun _ _ _ hin h => step_refused hin (.inl h)

/-- Settles O10, location by location: the address gives the location, and the write of the location its next state. -/
theorem definedWritesStore : Obligations.DefinedWritesStore := by
  intro s rest a data hin hf
  refine ⟨?a0, ?a1, ?a2, ?a3, ?srcW, ?srcH, ?src, ?dst, ?command, ?illegal⟩
  case a0 => rintro rfl; exact step_write_reg (r := .a0) hin hf rfl
  case a1 => rintro rfl; exact step_write_reg (r := .a1) hin hf rfl
  case a2 => rintro rfl; exact step_write_reg (r := .a2) hin hf rfl
  case a3 => rintro rfl; exact step_write_reg (r := .a3) hin hf rfl
  case srcW => rintro rfl; exact step_write_reg (r := .srcW) hin hf rfl
  case srcH => rintro rfl; exact step_write_reg (r := .srcH) hin hf rfl
  case src =>
    intro n hb hn ha
    exact ⟨s.src.write n data, (step_write hin).trans (hostWrite_src (s := s.accept rest) hf (locate_src ha hb hn) data),
      fun k => Memory.read?_write s.src n k data⟩
  case dst =>
    intro n hb hn ha
    exact ⟨s.dst.write n data, (step_write hin).trans (hostWrite_dst (s := s.accept rest) hf (locate_dst ha hb hn) data),
      fun k => Memory.read?_write s.dst n k data⟩
  case command =>
    rintro rfl i hi
    obtain ⟨t, ht⟩ := exec_next i (s.accept rest)
    exact ⟨t, ht, by rw [step_command hin hf, runCommand_ok hi, ht]; rfl⟩
  case illegal =>
    rintro rfl e he
    rw [step_command hin hf, runCommand_error he]
    rfl

/-- Settles O11: the address gives the location, and the location has a value. -/
theorem definedReadsAnswerCurrentValue : Obligations.DefinedReadsAnswerCurrentValue := by
  intro s rest
  refine ⟨?registers, ?src, ?dst⟩
  case registers =>
    intro p hp hin
    rw [readableRegisters_eq, List.mem_filterMap] at hp
    obtain ⟨r, -, hr⟩ := hp
    obtain ⟨v, hv, rfl⟩ := Option.map_eq_some_iff.1 hr
    have hlt := regOffset_lt r
    have hl : locate s.maxpix (BitVec.ofNat 32 (regOffset r)) = some (.reg r) :=
      locate_eq_reg_iff.2 (u_toWord (by omega)).symm
    exact step_read_value hin ((State.readValue_of_reg (s := s.accept rest) hl).trans hv)
  case src =>
    intro n hb hn hin
    have hl := locate_src (u_toWord (by omega)) hb hn
    exact ⟨_, step_read_value hin (State.readValue_of_src hl), fun x hx => State.srcWord_of_read? hx⟩
  case dst =>
    intro n hb hn hin
    have hl := locate_dst (u_toWord (by omega)) hb hn
    exact ⟨_, step_read_value hin (State.readValue_of_dst hl), fun x hx => State.dstWord_of_read? hx⟩

/-- Settles O12: every write is refused in the faulted state, and no read looks at STATUS.FAULT. -/
theorem faultedStateRefusesEveryWrite : Obligations.FaultedStateRefusesEveryWrite :=
  fun s rest hf => ⟨fun a d hin => step_refused hin (.inr ⟨hf, a, d, rfl⟩), definedReadsAnswerCurrentValue s rest⟩

end Sys2Proof.Machine
end

section
/-! The command words (30_encoding.md R52 to R55): decoding is the inverse of encoding, so a statement about the decoder is one
about the fifteen words the encoder gives. -/

namespace Sys2Proof
open Sys2Proof.Machine Sys2Proof.Statements

theorem decode_encode (i : Instr) : decode (encode i) = .ok i := by
  cases i
  case chan k => cases k <;> rfl
  all_goals rfl

theorem eq_encode_iff {w : Word} (i : Instr) : w = encode i ↔ decode w = .ok i := by
  constructor
  · rintro rfl
    exact decode_encode i
  · exact fun h => (decode_ok h).symm

/-- The commands in the order of the rows of 30_encoding.md R53, CHAN once for each channel. -/
def allInstrs : List Instr :=
  [.chan .red, .chan .green, .chan .blue, .chan .alpha,
    .pack, .idx, .inb, .aclr, .aing, .aingi, .aavg, .squash, .crot, .blur, .expand]

theorem mem_allInstrs (i : Instr) : i ∈ allInstrs := by
  cases i
  case chan k => cases k <;> decide
  all_goals decide

/-- The numbers of the fifteen legal words (30_encoding.md R55). -/
def legalWords : List Nat := allInstrs.map fun i => (encode i).toNat

theorem mem_legalWords_iff {w : Word} : w.toNat ∈ legalWords ↔ ∃ i, decode w = .ok i := by
  simp only [legalWords, List.mem_map, mem_allInstrs, true_and, BitVec.toNat_inj, eq_comm (b := w), eq_encode_iff]

/-- The decoder rejects every word but the legal ones (30_encoding.md R55). -/
theorem decode_error_iff {w : Word} : (∃ e, decode w = .error e) ↔ w.toNat ∉ legalWords := by
  rw [mem_legalWords_iff]
  cases decode w <;> simp

/-- The three conditions of 30_encoding.md R55 on the number of a command word. -/
def failsCondition (n : Nat) : Prop :=
  n / 64 ≠ 0 ∨ n % 16 ∈ [0x0, 0xD, 0xE, 0xF] ∨ (n % 16 ≠ 1 ∧ n / 16 % 4 ≠ 0)

theorem lt_of_mem_legalWords : ∀ n ∈ legalWords, n < 64 := by decide

theorem not_mem_legalWords_iff (n : Nat) : n ∉ legalWords ↔ failsCondition n := by
  by_cases hn : n < 64
  · have inRange : ∀ m < 64, m ∉ legalWords ↔ failsCondition m := by
      unfold failsCondition
      decide
    exact inRange n hn
  · exact iff_of_true (fun h => hn (lt_of_mem_legalWords n h)) (.inl (by omega))

/-- A full mask keeps the whole word: a row without operand bits has one word (30_encoding.md R53). -/
theorem and_fullMask_eq_encode_iff {w : Word} (i : Instr) : w &&& 0xFFFFFFFF#32 = encode i ↔ decode w = .ok i := by
  rw [show w &&& 0xFFFFFFFF#32 = w from BitVec.and_allOnes, eq_encode_iff]

/-- The mask of CHAN keeps the zero field (30_encoding.md R53). -/
theorem wordZero_and_chanMask (w : Word) : wordZero (w &&& 0xFFFFFFCF#32) = wordZero w := by
  rw [wordZero, BitVec.extractLsb'_and]
  exact BitVec.and_allOnes

/-- The mask of CHAN keeps the opcode (30_encoding.md R53). -/
theorem wordOp_and_chanMask (w : Word) : wordOp (w &&& 0xFFFFFFCF#32) = wordOp w := by
  rw [wordOp, BitVec.extractLsb'_and]
  exact BitVec.and_allOnes

theorem selOfChannel_channelOfSel (sel : BitVec 2) : selOfChannel (channelOfSel sel) = sel := by
  revert sel
  decide

/-- The row of CHAN has one word for each channel (30_encoding.md R53). -/
theorem and_chanMask_eq_iff {w : Word} : w &&& 0xFFFFFFCF#32 = 0x00000001#32 ↔ ∃ k, decode w = .ok (.chan k) := by
  constructor
  · intro h
    have hzero : wordZero w = 0#26 := by
      rw [← wordZero_and_chanMask, h]
      rfl
    have hop : wordOp w = 1#4 := by
      rw [← wordOp_and_chanMask, h]
      rfl
    refine ⟨channelOfSel (wordSel w), (eq_encode_iff _).1 ?_⟩
    calc w = (wordZero w ++ wordSel w) ++ wordOp w := (word_eq_fields w).symm
      _ = commandWord (wordSel w) 1 := by rw [hzero, hop]; rfl
      _ = encode (.chan (channelOfSel (wordSel w))) := by rw [encode, selOfChannel_channelOfSel]
  · rintro ⟨k, hk⟩
    rw [← decode_ok hk]
    cases k <;> rfl

/-- Settles O3: the row of CHAN by its mask, every other row and the four words of CHAN by the one word they have. -/
theorem opcodeMapMatchesRows : Obligations.OpcodeMapMatchesRows :=
  fun _ => ⟨and_chanMask_eq_iff, and_fullMask_eq_encode_iff .pack, and_fullMask_eq_encode_iff .idx,
    and_fullMask_eq_encode_iff .inb, and_fullMask_eq_encode_iff .aclr, and_fullMask_eq_encode_iff .aing,
    and_fullMask_eq_encode_iff .aingi, and_fullMask_eq_encode_iff .aavg, and_fullMask_eq_encode_iff .squash,
    and_fullMask_eq_encode_iff .crot, and_fullMask_eq_encode_iff .blur, and_fullMask_eq_encode_iff .expand,
    eq_encode_iff (.chan .red), eq_encode_iff (.chan .green), eq_encode_iff (.chan .blue), eq_encode_iff (.chan .alpha)⟩

/-- A write of an illegal word to CMD enters ILLEGAL_CMD and is answered OK (20_memory.md R37, 60_exceptions.md R104). -/
theorem step_illegal {s : State} {rest : List Input} {w : Word} {e : IllegalWord}
    (hin : s.inputs = .transaction (.wr 0 w) :: rest) (hf : s.faulted = false) (he : decode w = .error e) :
    step s = .next (answered (faultedWith s 1 w) rest .ok) := by
  rw [step_command hin hf, runCommand_error he]
  rfl

/-- Settles O4: the rejected words are those that are not legal, and the fifteen are all that meet none of the conditions. -/
theorem illegalWordsFault : Obligations.IllegalWordsFault :=
  fun w => ⟨decode_error_iff.trans (not_mem_legalWords_iff w.toNat), decode_error_iff,
    fun _ _ ⟨_, he⟩ hf hin => step_illegal hin hf he⟩

end Sys2Proof
end

section
/-! The codec (40_codec.md): a channel is a bit field of the pixel, and a packed pixel is its four bytes. -/

namespace Sys2Proof.Machine
open Sys2Proof.Statements

/-- Channel `k` is bits `31 - 8k : 24 - 8k` (40_codec.md R60). -/
theorem chan_eq_extractLsb' (p : Word) (k : Channel) : chan p k = (p.extractLsb' (24 - 8 * channelNumber k) 8).toNat := by
  rw [BitVec.extractLsb'_toNat, Nat.shiftRight_eq_div_pow]
  rfl

/-- Settles O42: the bit field of each channel. -/
theorem channelIsTheBitField : Obligations.ChannelIsTheBitField := fun p =>
  ⟨chan_eq_extractLsb' p .red, chan_eq_extractLsb' p .green, chan_eq_extractLsb' p .blue, chan_eq_extractLsb' p .alpha⟩

/-- CHAN completes in every state (40_codec.md R62). -/
theorem exec_chan (k : Channel) (s : State) :
    exec (.chan k) s = .next { s with res := (s.a0.extractLsb' (24 - 8 * channelNumber k) 8).setWidth 32 } := by
  rw [← BitVec.ofNat_toNat, ← chan_eq_extractLsb']
  rfl

/-- Every selector is legal with the opcode of CHAN, so only the zero field can make such a word illegal
(30_encoding.md R55). -/
theorem decode_chanOpcode_error_iff {w : Word} (h : w.toNat % 16 = 1) :
    (∃ e, decode w = .error e) ↔ w.toNat / 64 ≠ 0 := by
  rw [decode_error_iff, not_mem_legalWords_iff]
  simp [failsCondition, h]

/-- Settles O30: CHAN completes whatever the channel and the state. -/
theorem chanWritesChannel : Obligations.ChanWritesChannel := fun s =>
  ⟨decode_encode (.chan .red), decode_encode (.chan .green), decode_encode (.chan .blue), decode_encode (.chan .alpha),
    exec_chan .red s, exec_chan .green s, exec_chan .blue s, exec_chan .alpha s, fun _ => decode_chanOpcode_error_iff⟩

/-- The channels of a packed pixel (40_codec.md R64). -/
theorem chan_pack {r g b a : Nat} (hr : r ≤ 255) (hg : g ≤ 255) (hb : b ≤ 255) (ha : a ≤ 255) :
    chan (pack r g b a) .red = r ∧ chan (pack r g b a) .green = g ∧
      chan (pack r g b a) .blue = b ∧ chan (pack r g b a) .alpha = a := by
  have hu : u (pack r g b a) = r * 16777216 + g * 65536 + b * 256 + a := u_pack (by omega) (by omega) (by omega) (by omega)
  rw [chan_red, chan_green, chan_blue, chan_alpha, hu]
  omega

/-- A pixel is the pack of its channels (40_codec.md R64): the four fields cover the word. -/
theorem pack_chan (p : Word) : pack (chan p .red) (chan p .green) (chan p .blue) (chan p .alpha) = p := by
  apply BitVec.eq_of_toNat_eq
  have hp : u p < 4294967296 := u_lt p
  calc u (pack (chan p .red) (chan p .green) (chan p .blue) (chan p .alpha))
      = chan p .red * 16777216 + chan p .green * 65536 + chan p .blue * 256 + chan p .alpha :=
        u_pack (chan_lt p .red) (chan_lt p .green) (chan_lt p .blue) (chan_lt p .alpha)
    _ = u p := by
      rw [chan_red, chan_green, chan_blue, chan_alpha]
      omega

/-- Settles O43: the two directions of 40_codec.md R64. -/
theorem codecRoundTrip : Obligations.CodecRoundTrip :=
  ⟨fun _ _ _ _ => chan_pack, pack_chan⟩

/-- A concatenation as a sum: how 40_codec.md R61 turns fields into a number. -/
theorem toNat_append_eq_add {m n : Nat} (x : BitVec m) (y : BitVec n) :
    (x ++ y).toNat = x.toNat * 2 ^ n + y.toNat := by
  rw [BitVec.toNat_append, ← Nat.shiftLeft_add_eq_or_of_lt y.isLt, Nat.shiftLeft_eq]

theorem toNat_setWidth_of_byte {v : Word} (h : u v ≤ 255) : (v.setWidth 8).toNat = u v := by
  rw [BitVec.toNat_setWidth]
  exact Nat.mod_eq_of_lt (Nat.lt_succ_of_le h)

/-- The pack of four bytes is their concatenation (40_codec.md R61). -/
theorem pack_eq_append {r g b a : Word} (hr : u r ≤ 255) (hg : u g ≤ 255) (hb : u b ≤ 255) (ha : u a ≤ 255) :
    pack (u r) (u g) (u b) (u a) = ((r.setWidth 8 ++ g.setWidth 8) ++ b.setWidth 8) ++ a.setWidth 8 := by
  apply BitVec.eq_of_toNat_eq
  calc (pack (u r) (u g) (u b) (u a)).toNat = u r * 16777216 + u g * 65536 + u b * 256 + u a :=
        u_pack (by omega) (by omega) (by omega) (by omega)
    _ = ((u r * 2 ^ 8 + u g) * 2 ^ 8 + u b) * 2 ^ 8 + u a := by omega
    _ = (((r.setWidth 8 ++ g.setWidth 8) ++ b.setWidth 8) ++ a.setWidth 8).toNat := by
      simp only [toNat_append_eq_add, toNat_setWidth_of_byte hr, toNat_setWidth_of_byte hg, toNat_setWidth_of_byte hb,
        toNat_setWidth_of_byte ha]

/-- Settles O31: PACK completes on four bytes, and no operand above 255 is one. -/
theorem packWritesPixelOrFaults : Obligations.PackWritesPixelOrFaults := by
  intro s
  refine ⟨decode_encode .pack, ?fourBytes, fun h => exec_pack_fault h⟩
  case fourBytes =>
    rintro ⟨h0, h1, h2, h3⟩
    rw [exec_pack ⟨h0, h1, h2, h3⟩, pack_eq_append h0 h1 h2 h3]

end Sys2Proof.Machine
end

section
/-! The coordinate mapper (41_mapper.md): the index of a coordinate, IDX inside and outside its domain, and INB. -/

namespace Sys2Proof.Machine
open Sys2Proof.Statements

/-- A bound on the index is a bound on the mathematical integer, also where that is negative (41_mapper.md R65). -/
theorem index_lt_iff {w n : Nat} {row col : Int} (hn : 0 < n) : index w row col < n ↔ row * (w : Int) + col < (n : Int) := by
  unfold index
  omega

theorem le_index_iff {w n : Nat} {row col : Int} (hn : 0 < n) : n ≤ index w row col ↔ (n : Int) ≤ row * (w : Int) + col := by
  rw [← not_lt, index_lt_iff hn, not_lt]

/-- The index of a coordinate in bounds is one of the image's (41_mapper.md R69). -/
theorem index_lt_of_inBounds {w h : Nat} {row col : Int} (hb : inBounds w h row col = true) : index w row col < w * h := by
  obtain ⟨hrow, hrowLt, hcol, hcolLt⟩ := inBounds_iff.1 hb
  lift row to Nat using hrow
  lift col to Nat using hcol
  rw [index_natCast]
  exact index_lt_of_lt (by omega) (by omega)

/-- Settles O44: the index of a coordinate in bounds is below the number of pixels, from which the bounds follow. -/
theorem guardedIndexIsInsideTheImage : Obligations.GuardedIndexIsInsideTheImage := by
  intro w h row col hb
  obtain ⟨hrow, -, hcol, -⟩ := inBounds_iff.1 hb
  have hlt : index w row col < w * h := index_lt_of_inBounds hb
  exact ⟨natCast_index hrow hcol, Nat.le_sub_one_of_lt hlt, Nat.one_le_of_lt hlt, fun hsize => by omega⟩

/-- IDX writes the mathematical index where it is defined and fits RES (41_mapper.md R67). -/
theorem exec_idx_writes {s : State} (hw : 1 ≤ u s.a0) (hrow : 0 ≤ sgn s.a1) (hcol : 0 ≤ sgn s.a2)
    (hlt : sgn s.a2 < (u s.a0 : Int)) (hfit : sgn s.a1 * (u s.a0 : Int) + sgn s.a2 < 2 ^ 32) :
    ∃ v, exec .idx s = .next { s with res := v } ∧ (u v : Int) = sgn s.a1 * (u s.a0 : Int) + sgn s.a2 := by
  have hindex : index (u s.a0) (sgn s.a1) (sgn s.a2) < 4294967296 := (index_lt_iff (by decide)).2 hfit
  refine ⟨_, exec_idx ⟨hw, hrow, hcol, hlt⟩ hindex, ?_⟩
  rw [u_toWord hindex, natCast_index hrow hcol]

/-- IDX enters BAD_COORD outside the domain of the index, and where the index does not fit (41_mapper.md R67). -/
theorem exec_idx_badCoord {s : State} (h : u s.a0 = 0 ∨ sgn s.a1 < 0 ∨ sgn s.a2 < 0 ∨ (u s.a0 : Int) ≤ sgn s.a2 ∨
    2 ^ 32 ≤ sgn s.a1 * (u s.a0 : Int) + sgn s.a2) : exec .idx s = .next (faultedWith s 3 0x03) := by
  apply exec_idx_fault
  by_cases hbig : 2 ^ 32 ≤ sgn s.a1 * (u s.a0 : Int) + sgn s.a2
  · exact .inr ((le_index_iff (by decide)).2 hbig)
  · exact .inl (by omega)

/-- Settles O32: the two cases of 41_mapper.md R67, with the signed operands read as two's-complement values. -/
theorem idxWritesIndexOrFaults : Obligations.IdxWritesIndexOrFaults := by
  intro s
  rw [← sgn_eq_toInt, ← sgn_eq_toInt]
  exact ⟨decode_encode .idx, fun ⟨hw, hrow, hcol, hlt, hfit⟩ => exec_idx_writes hw hrow hcol hlt hfit, exec_idx_badCoord⟩

/-- INB writes the boolean of the bounds check in every state (41_mapper.md R68). -/
theorem exec_inb (s : State) :
    exec .inb s = .next { s with res := boolWord (inBounds (u s.a0) (u s.a1) (sgn s.a2) (sgn s.a3)) } := rfl

theorem exec_inb_inside {s : State} (h : inBounds (u s.a0) (u s.a1) (sgn s.a2) (sgn s.a3) = true) :
    exec .inb s = .next { s with res := 1 } := by
  rw [exec_inb, h, boolWord, if_pos rfl]

theorem exec_inb_outside {s : State} (h : inBounds (u s.a0) (u s.a1) (sgn s.a2) (sgn s.a3) ≠ true) :
    exec .inb s = .next { s with res := 0 } := by
  rw [exec_inb, boolWord, if_neg h]

/-- Settles O33: the bounds check as inequalities decides which of the two values INB writes. -/
theorem inbWritesBoundsCheck : Obligations.InbWritesBoundsCheck := by
  intro s
  rw [← sgn_eq_toInt, ← sgn_eq_toInt]
  exact ⟨decode_encode .inb, fun h => exec_inb_inside (inBounds_iff.2 h), fun h => exec_inb_outside (mt inBounds_iff.1 h)⟩

end Sys2Proof.Machine
end

section
/-! The averager (42_averager.md): the average of a list of pixels, ingestion into the host-visible averager, and the four
commands. -/

namespace Sys2Proof.Machine
open Sys2Proof.Statements

/-- The channels of the average of a list are the sums of its channels, each divided once (42_averager.md R78). -/
theorem chan_average_foldl_ingest {ps : List Word} (hps : ps ≠ []) (k : Channel) :
    chan (average (ps.foldl ingest fresh)) k = (ps.map fun p => chan p k).sum / ps.length := by
  have hcount : (ps.foldl ingest fresh).n = ps.length := by rw [foldl_ingest_n, fresh_n, Nat.zero_add]
  have hpos : (ps.foldl ingest fresh).n ≠ 0 := by rwa [hcount, ne_eq, List.length_eq_zero_iff]
  rw [chan_average (foldl_ingest_bounded ps fresh_bounded) hpos, hcount, foldl_ingest_sum, fresh_sum, Nat.zero_add]

/-- Ingestion does not depend on the order of the pixels: the sums and the count do not (42_averager.md R78). -/
theorem foldl_ingest_perm {ps qs : List Word} (h : ps.Perm qs) (v : Averager) : ps.foldl ingest v = qs.foldl ingest v := by
  refine Averager.ext_sum (fun k => ?sums) ?count
  case sums => rw [foldl_ingest_sum, foldl_ingest_sum, (h.map fun p => chan p k).sum_eq]
  case count => rw [foldl_ingest_n, foldl_ingest_n, h.length_eq]

/-- One pixel is its own average: each channel is divided by 1 (42_averager.md R78). -/
theorem average_ingest_fresh (p : Word) : average (ingest fresh p) = p := by
  calc average (ingest fresh p) = pack (chan p .red) (chan p .green) (chan p .blue) (chan p .alpha) := by
        simp [average, ingest, fresh]
    _ = p := pack_chan p

/-- With nothing ingested the average is the all-zero pixel, and nothing is divided (42_averager.md R71). -/
theorem average_of_count_zero {v : Averager} (h : v.n = 0) : average v = 0 := if_pos h

/-- Settles O45: the laws of the average, from what a list of ingestions does to each sum and to the count. -/
theorem averageIsTheTruncatedMean : Obligations.AverageIsTheTruncatedMean :=
  ⟨fun _ k hps => chan_average_foldl_ingest hps k, fun _ _ h => congrArg average (foldl_ingest_perm h fresh),
    average_ingest_fresh, average_of_count_zero rfl⟩

/-- Within the bounds of 10_state.md R20 an averager value is read back from the five registers as it was stored. -/
theorem State.averager_setAverager {v : Averager} (hb : v.Bounded) (hn : v.n ≤ Config.countMax) (s : State) :
    (s.setAverager v).averager = v := by
  obtain ⟨hr, hg, hbl, ha⟩ := hb
  rw [countMax_eq] at hn
  simp only [State.averager, State.setAverager_sumR, State.setAverager_sumG, State.setAverager_sumB,
    State.setAverager_sumA, State.setAverager_count]
  rw [u_toWord (by omega), u_toWord (by omega), u_toWord (by omega), u_toWord (by omega), u_toWord (by omega)]

/-- An averager that is not full takes one more pixel with no wrap (42_averager.md R72). -/
theorem State.averager_ingest {s : State} (h : s.AveragerBounds) (hfull : u s.count ≠ Config.countMax) (p : Word) :
    (s.setAverager (ingest s.averager p)).averager = ingest s.averager p := by
  obtain ⟨hb, hn⟩ := ingest_keeps_bounds hfull p h
  exact State.averager_setAverager hb hn s

/-- An ingestion that does not wrap is the spec's on mathematical integers (42_averager.md R70). -/
theorem ingested_setAverager {s : State} (h : s.AveragerBounds) (hfull : u s.count ≠ Config.countMax) (p : Word) :
    ingested s (s.setAverager (ingest s.averager p)) p := by
  have hread := State.averager_ingest h hfull p
  exact ⟨rfl, congrArg Averager.sr hread, congrArg Averager.sg hread, congrArg Averager.sb hread,
    (congrArg Averager.sa hread).trans (congrArg (u s.sumA + ·) (chan_alpha p)), congrArg Averager.n hread⟩

/-- ACLR completes in every state (42_averager.md R73). -/
theorem exec_aclr (s : State) :
    exec .aclr s = .next { s with sumR := 0, sumG := 0, sumB := 0, sumA := 0, count := 0 } := rfl

/-- A host write stores nothing into COUNT (20_memory.md R36, condition 4). -/
theorem Stored.count {s t : State} (h : Stored s t) : t.count = s.count := by
  cases h <;> rfl

/-- Of the effects a command can have only that of ACLR lowers COUNT: an ingestion raises it (42_averager.md R73). -/
theorem Effect.eq_aclr_of_count_lt {s t : State} {i : Instr} (he : Effect s i t) (h : s.AveragerBounds)
    (hlt : u t.count < u s.count) : i = .aclr := by
  cases he with
  | result | skip | destination => exact absurd hlt (lt_irrefl _)
  | averager v _ hv _ =>
    obtain ⟨hi, -⟩ | ⟨hfull, p, rfl⟩ := hv
    · exact hi
    · have hcount : u (s.setAverager (ingest s.averager p)).count = u s.count + 1 :=
        congrArg Averager.n (State.averager_ingest h hfull p)
      omega

theorem State.AveragerBounds.accept {s : State} (h : s.AveragerBounds) (rest : List Input) :
    (s.accept rest).AveragerBounds :=
  ⟨h.count_le, h.sumR_le, h.sumG_le, h.sumB_le, h.sumA_le⟩

/-- COUNT is lowered by the reset input or by a run of ACLR only (42_averager.md R73). -/
theorem resetNext_or_runs_aclr_of_count_lt {s t : State} (h : s.AveragerBounds) (hstep : step s = .next t)
    (hlt : u t.count < u s.count) : resetNext s ∨ runs s .aclr := by
  cases step_next_cases hstep with
  | idle | read | fault => exact absurd hlt (lt_irrefl _)
  | reset rest hin => exact .inl ⟨rest, hin⟩
  | store rest a d t hin hs => exact absurd (hs.count ▸ hlt) (lt_irrefl _)
  | command rest w i t hin hf hi he =>
    obtain rfl : i = .aclr := he.eq_aclr_of_count_lt (h.accept rest) hlt
    exact .inr ⟨rest, w, hin, hi, hf⟩

/-- Settles O34: what ACLR does in every state, and the cases of a step that can lower COUNT. -/
theorem aclrClearsTheAverager : Obligations.AclrClearsTheAverager := fun s =>
  ⟨decode_encode .aclr, exec_aclr s, fun _ => resetNext_or_runs_aclr_of_count_lt⟩

/-- Settles O35: AING ingests A0 unless the averager is full. -/
theorem aingIngestsOrFaults : Obligations.AingIngestsOrFaults := by
  intro s hbounds
  rw [← countMax_eq]
  exact ⟨decode_encode .aing, fun h => ⟨_, exec_aing h, ingested_setAverager hbounds h s.a0⟩, exec_aing_fault⟩

/-- The source image is valid (10_state.md R18). -/
theorem srcValid_iff_validSource {s : State} : s.srcValid = true ↔ validSource s := srcValid_iff

theorem srcValid_eq_false {s : State} (h : ¬ validSource s) : s.srcValid = false :=
  Bool.eq_false_iff.2 (mt srcValid_iff_validSource.1 h)

/-- Settles O36: the order of the three checks of AINGI (the image, the coordinate, the count), and the pixel it ingests. -/
theorem aingiIngestsSkipsOrFaults : Obligations.AingiIngestsSkipsOrFaults := by
  intro s hbounds
  rw [← countMax_eq, ← sgn_eq_toInt, ← sgn_eq_toInt]
  refine ⟨decode_encode .aingi, fun hinvalid => exec_badImage (.inl rfl) (srcValid_eq_false hinvalid), fun hvalid => ?_⟩
  rw [← srcValid_iff_validSource] at hvalid
  refine ⟨fun hout => exec_aingi_skip hvalid (Bool.eq_false_iff.2 (mt inBounds_iff.1 hout)), ?inside⟩
  case inside =>
    intro row col hrow hcol hrowLt hcolLt
    have hin : inBounds (u s.srcW) (u s.srcH) (sgn s.a0) (sgn s.a1) = true := by
      rw [inBounds_iff, hrow, hcol]
      exact ⟨Int.natCast_nonneg row, Int.ofNat_lt.2 hrowLt, Int.natCast_nonneg col, Int.ofNat_lt.2 hcolLt⟩
    refine ⟨exec_aingi_fault hvalid hin, fun hfull =>
      ⟨_, _, exec_aingi hvalid hin hfull, ingested_setAverager hbounds hfull _, fun v hread => ?_⟩⟩
    rw [hrow, hcol, index_natCast]
    exact State.srcWord_of_read? hread

/-- AAVG completes in every state (42_averager.md R77). -/
theorem exec_aavg (s : State) : exec .aavg s = .next { s with res := average s.averager } := rfl

/-- The red channel is the top byte, so nothing lies above it (40_codec.md R60). -/
theorem chan_red_eq_div (p : Word) : chan p .red = u p / 2 ^ 24 :=
  Nat.mod_eq_of_lt (Nat.div_lt_of_lt_mul (u_lt p))

/-- Settles O37: the average of the host-visible averager, channel by channel. -/
theorem aavgWritesTheAverage : Obligations.AavgWritesTheAverage := by
  intro s hbounds
  refine ⟨decode_encode .aavg, fun hzero => ?zero, fun hpos => ⟨_, exec_aavg s, ?channels⟩⟩
  case zero => rw [exec_aavg, average_of_count_zero (v := s.averager) hzero]
  case channels =>
    have hmean := chan_average (averager_bounded hbounds) hpos
    exact ⟨(chan_red_eq_div _).symm.trans (hmean .red), hmean .green, hmean .blue,
      (chan_alpha _).symm.trans (hmean .alpha)⟩

end Sys2Proof.Machine
end

section
/-! The downsampler (43_downsampler.md): which source word SQUASH samples, and what a transform leaves unchanged. -/

namespace Sys2Proof.Machine
open Sys2Proof.Statements

/-- The frame of a transform that does not fault (20_memory.md R46). -/
theorem onlyDestination_writeDestination (s : State) (w h : Nat) (px : Nat → Nat → Word) :
    onlyDestination s (s.writeDestination w h px) w h :=
  ⟨rfl, fun _ hpast => State.read?_writeDestination_past s px hpast⟩

/-- The sample of pixel `(i, j)` is source word `(i * yf) * W + j * xf` (43_downsampler.md R81). -/
theorem squashPx_sourceImage (s : State) (m xf yf i j : Nat) :
    squashPx (s.sourceImage m) xf yf i j = s.srcWord m (i * yf * u s.srcW + j * xf) :=
  congrArg (s.srcWord m) (index_natCast (u s.srcW) (i * yf) (j * xf))

/-- Settles O38: the image is checked before the factors, and each pixel of the destination is its sample of the source. -/
theorem squashSamplesOrFaults : Obligations.SquashSamplesOrFaults := by
  intro s
  refine ⟨decode_encode .squash, fun hinvalid => exec_badImage (.inr (.inl rfl)) (srcValid_eq_false hinvalid),
    fun hvalid hzero => exec_squash_fault (srcValid_iff_validSource.2 hvalid) hzero, fun hvalid hxf hyf => ?samples⟩
  case samples =>
    have hfactors : u s.a0 ≠ 0 ∧ u s.a1 ≠ 0 := ⟨Nat.one_le_iff_ne_zero.1 hxf, Nat.one_le_iff_ne_zero.1 hyf⟩
    refine ⟨_, exec_squash (srcValid_iff_validSource.2 hvalid) hfactors, onlyDestination_writeDestination s _ _ _,
      fun i j hi hj => ⟨_, State.read?_writeDestination_pixel s _ hi hj, fun v hread => ?_⟩⟩
    rw [squashPx_sourceImage]
    exact State.srcWord_of_read? hread

/-- Settles O50: with both factors 1 the sample of pixel `(m / W, m % W)` is source word `m` itself. -/
theorem squashByOneCopies : Obligations.SquashByOneCopies := by
  intro s hvalid hxf hyf
  obtain ⟨-, -, -, hsamples⟩ := squashSamplesOrFaults s
  have hone : (1 : Word).toNat = 1 := rfl
  simp only [hxf, hyf, hone, Nat.div_one, Nat.mul_one] at hsamples
  obtain ⟨t, ht, ⟨hframe, -⟩, hpixel⟩ := hsamples hvalid le_rfl le_rfl
  refine ⟨t, ht, ?width, ?height, fun m v hm hread => ?word⟩
  case width => exact (congrArg State.dstW hframe).trans (toWord_u s.srcW)
  case height => exact (congrArg State.dstH hframe).trans (toWord_u s.srcH)
  case word =>
    have hindex : m / s.srcW.toNat * s.srcW.toNat + m % s.srcW.toNat = m := Nat.div_add_mod' m s.srcW.toNat
    obtain ⟨p, hp, hsample⟩ :=
      hpixel (m / s.srcW.toNat) (m % s.srcW.toNat) (Nat.div_lt_of_lt_mul hm) (Nat.mod_lt m hvalid.1)
    rw [hindex] at hp hsample
    rw [hp, hsample v hread]

end Sys2Proof.Machine
end

section
/-! The channel rotator (44_channel_rotator.md): the rotation as a permutation of the channels and of the bit fields, and CROT. -/

namespace Sys2Proof.Machine
open Sys2Proof.Statements

/-- The channels of a rotated pixel (44_channel_rotator.md R85). -/
theorem chan_rot (p : Word) :
    chan (rot p) .red = chan p .blue ∧ chan (rot p) .green = chan p .red ∧
      chan (rot p) .blue = chan p .green ∧ chan (rot p) .alpha = chan p .alpha :=
  have channel_le (k : Channel) : chan p k ≤ 255 := Nat.le_of_lt_succ (chan_lt p k)
  chan_pack (channel_le .blue) (channel_le .red) (channel_le .green) (channel_le .alpha)

/-- A second rotation moves each colour one place further: it is the inverse rotation (44_channel_rotator.md R87). -/
theorem rot_rot (p : Word) : rot (rot p) = pack (chan p .green) (chan p .blue) (chan p .red) (chan p .alpha) := by
  obtain ⟨hred, hgreen, hblue, halpha⟩ := chan_rot p
  rw [rot, hred, hgreen, hblue, halpha]

/-- A third rotation puts every colour back, and a pixel is the pack of its channels (44_channel_rotator.md R87). -/
theorem rot_rot_rot (p : Word) : rot (rot (rot p)) = p := by
  obtain ⟨hred, hgreen, hblue, halpha⟩ := chan_rot p
  rw [rot_rot, hgreen, hblue, hred, halpha, pack_chan]

/-- The rotation is undone by two more, on either side. -/
theorem rot_bijective : Function.Bijective rot :=
  Function.bijective_iff_has_inverse.2 ⟨fun p => rot (rot p), rot_rot_rot, rot_rot_rot⟩

/-- The pack of four bit fields of 8 bits is their concatenation (40_codec.md R61). -/
theorem pack_toNat_eq_append (r g b a : BitVec 8) :
    pack r.toNat g.toNat b.toNat a.toNat = ((r ++ g) ++ b) ++ a := by
  apply BitVec.eq_of_toNat_eq
  calc (pack r.toNat g.toNat b.toNat a.toNat).toNat
      = r.toNat * 16777216 + g.toNat * 65536 + b.toNat * 256 + a.toNat := u_pack r.isLt g.isLt b.isLt a.isLt
    _ = (((r ++ g) ++ b) ++ a).toNat := by
      simp only [toNat_append_eq_add]
      omega

/-- The rotation in bit fields (44_channel_rotator.md R85). -/
theorem rot_eq_append (p : Word) :
    rot p = ((p.extractLsb' 8 8 ++ p.extractLsb' 24 8) ++ p.extractLsb' 16 8) ++ p.extractLsb' 0 8 := by
  obtain ⟨hred, hgreen, hblue, halpha⟩ := channelIsTheBitField p
  rw [rot, hred, hgreen, hblue, halpha, pack_toNat_eq_append]

/-- The inverse rotation in bit fields (44_channel_rotator.md R87). -/
theorem rot_rot_eq_append (p : Word) :
    rot (rot p) = ((p.extractLsb' 16 8 ++ p.extractLsb' 8 8) ++ p.extractLsb' 24 8) ++ p.extractLsb' 0 8 := by
  obtain ⟨hred, hgreen, hblue, halpha⟩ := channelIsTheBitField p
  rw [rot_rot, hred, hgreen, hblue, halpha, pack_toNat_eq_append]

/-- Settles O46: the 3-cycle of the colour channels, its square in bit fields, and the inverse it gives the rotation. -/
theorem rotationIsAThreeCycle : Obligations.RotationIsAThreeCycle :=
  ⟨rot_rot_rot, rot_rot_eq_append, rot_bijective⟩

/-- CROT of a valid image puts into word `m` of the destination the rotation of source word `m`: the pixel's row and column
give back its index (44_channel_rotator.md R86). -/
theorem exec_crot_rotates {s : State} (hvalid : s.srcValid = true) :
    ∃ t, exec .crot s = .next t ∧ onlyDestination s t (u s.srcW) (u s.srcH) ∧
      ∀ m, m < u s.srcW * u s.srcH → t.dst.read? m = some (rot (s.srcWord m m)) := by
  refine ⟨_, exec_crot hvalid, onlyDestination_writeDestination s _ _ _, fun m hm => ?_⟩
  rw [State.read?_writeDestination_word s _ hm, Nat.div_add_mod']

/-- Settles O39: the validity of the source image decides between BAD_IMAGE and the rotation of every source word. -/
theorem crotRotatesOrFaults : Obligations.CrotRotatesOrFaults := by
  intro s
  refine ⟨decode_encode .crot, fun hinvalid => exec_badImage (.inr (.inr (.inl rfl))) (srcValid_eq_false hinvalid),
    fun hvalid => ?rotates⟩
  case rotates =>
    obtain ⟨t, ht, hframe, hword⟩ := exec_crot_rotates (srcValid_iff_validSource.2 hvalid)
    refine ⟨t, ht, hframe, fun m hm => ⟨s.srcWord m m, ?_, fun v hread => State.srcWord_of_read? hread⟩⟩
    rw [← rot_eq_append]
    exact hword m hm

end Sys2Proof.Machine
end

section
/-! The blur engine (45_blur_engine.md): the window it visits is the in-bounds part of the whole square, and BLUR. -/

namespace Sys2Proof.Machine
open Sys2Proof.Statements

/-- A filter that asks one thing of each coordinate of a product filters the two sides. -/
theorem filter_product {α β : Type} (p : α → Bool) (q : β → Bool) (as : List α) (bs : List β) :
    (as.product bs).filter (fun c => p c.1 && q c.2) = (as.filter p).product (bs.filter q) := by
  induction as with
  | nil => rfl
  | cons a as ih =>
    simp only [List.product, List.flatMap_cons, List.filter_append, List.filter_map, Function.comp_def] at ih ⊢
    rw [ih]
    cases hp : p a <;> simp [hp]

/-- The square of 45_blur_engine.md R90 is the product of its rows and its columns. -/
theorem blurNeighborhood_eq_product (i j d : Nat) : blurNeighborhood i j d =
    ((offsets d).map fun k => (i : Int) + k).product ((offsets d).map fun k => (j : Int) + k) := by
  simp only [blurNeighborhood, List.product, List.flatMap_map, List.map_map, Function.comp_def]

/-- The candidates the engine visits are the product of the two sides of the clipped window (45_blur_engine.md R92). -/
theorem blurCandidates_eq_product (w h i j d : Nat) : blurCandidates w h i j d =
    ((window h i d).map fun (r : Nat) => (r : Int)).product ((window w j d).map fun (c : Nat) => (c : Int)) := by
  simp only [blurCandidates, List.product, List.flatMap_map, List.map_map, Function.comp_def]

/-- `in_bounds` asks one thing of the row and one of the column (41_mapper.md R66). -/
theorem inBounds_eq_and (w h : Nat) (row col : Int) :
    inBounds w h row col = (decide (0 ≤ row ∧ row < (h : Int)) && decide (0 ≤ col ∧ col < (w : Int))) := by
  simp only [inBounds, ← Bool.decide_and, and_assoc]

/-- The in-bounds candidates of the whole square are those of the clipped window, in the same order
(45_blur_engine.md R93). -/
theorem filter_blurNeighborhood {w h i j : Nat} (d : Nat) (hi : i < h) (hj : j < w) :
    (blurNeighborhood i j d).filter (fun c => inBounds w h c.1 c.2) = blurCandidates w h i j d := by
  have hsides := filter_product (fun row => decide (0 ≤ row ∧ row < (h : Int)))
    (fun col => decide (0 ≤ col ∧ col < (w : Int))) ((offsets d).map fun k => (i : Int) + k)
    ((offsets d).map fun k => (j : Int) + k)
  simp only [inBounds_eq_and]
  rw [blurNeighborhood_eq_product, hsides, filter_offsets d hi, filter_offsets d hj, blurCandidates_eq_product]

/-- The pixel the engine computes over the clipped window is the average over the whole square: the candidates it does not
visit are those an averager skips (45_blur_engine.md R93). -/
theorem blurPx_eq_averageOf_blurNeighborhood (img : Image) {i j : Nat} (d : Nat) (hi : i < img.h) (hj : j < img.w) :
    blurPx img i j d = averageOf img (blurNeighborhood i j d) := by
  rw [averageOf_filter, filter_blurNeighborhood d hi hj, blurPx]

/-- The pixels of the source image a transform sees are a reading of SRC (10_state.md R23). -/
theorem readsSource_srcWord (s : State) (m : Nat) : readsSource s (s.srcWord m) :=
  fun _ _ hread => State.srcWord_of_read? hread

/-- Settles O40: the image is checked before the distance, and each pixel, computed over the clipped window of the image,
is the average over the whole square. -/
theorem blurAveragesTheNeighborhoodOrFaults : Obligations.BlurAveragesTheNeighborhoodOrFaults := by
  intro s
  rw [← sgn_eq_toInt]
  refine ⟨decode_encode .blur, fun hinvalid => exec_badImage (.inr (.inr (.inr (.inl rfl)))) (srcValid_eq_false hinvalid),
    fun hvalid hneg => exec_blur_fault (srcValid_iff_validSource.2 hvalid) hneg, fun d hvalid hd => ?averages⟩
  case averages =>
    refine ⟨_, exec_blur (srcValid_iff_validSource.2 hvalid) hd, onlyDestination_writeDestination s _ _ _,
      fun i j hi hj => ⟨s.srcWord (i * u s.srcW + j), readsSource_srcWord s _, ?_⟩⟩
    rw [← blurPx_eq_averageOf_blurNeighborhood _ d hi hj]
    exact State.read?_writeDestination_pixel s _ hi hj

end Sys2Proof.Machine
end

section
/-! The bilinear upsampler (46_bilinear_upsampler.md): the candidates of each parity, and EXPAND. -/

namespace Sys2Proof.Machine
open Sys2Proof.Statements

/-- Row and column even: the pixel alone (46_bilinear_upsampler.md R95). -/
theorem expandCandidates_even_even (r c : Nat) : expandCandidates (2 * r) (2 * c) = [((r : Int), (c : Int))] := by
  simp [expandCandidates]

/-- Column odd: the neighbour to the right besides (46_bilinear_upsampler.md R95). -/
theorem expandCandidates_even_odd (r c : Nat) : expandCandidates (2 * r) (2 * c + 1) =
    [((r : Int), (c : Int)), ((r : Int), (c : Int) + 1)] := by
  have hdiv : (2 * c + 1) / 2 = c := by omega
  simp [expandCandidates, hdiv]

/-- Row odd: the neighbour below besides (46_bilinear_upsampler.md R95). -/
theorem expandCandidates_odd_even (r c : Nat) : expandCandidates (2 * r + 1) (2 * c) =
    [((r : Int), (c : Int)), ((r : Int) + 1, (c : Int))] := by
  have hdiv : (2 * r + 1) / 2 = r := by omega
  simp [expandCandidates, hdiv]

/-- Row and column odd: the four pixels of the square (46_bilinear_upsampler.md R95). -/
theorem expandCandidates_odd_odd (r c : Nat) : expandCandidates (2 * r + 1) (2 * c + 1) =
    [((r : Int), (c : Int)), ((r : Int), (c : Int) + 1), ((r : Int) + 1, (c : Int)), ((r : Int) + 1, (c : Int) + 1)] := by
  have hrow : (2 * r + 1) / 2 = r := by omega
  have hcol : (2 * c + 1) / 2 = c := by omega
  simp [expandCandidates, hrow, hcol]

/-- EXPAND that does not fault, pixel by pixel: its size, its frame, and at every `(i, j)` of the doubled image the average
of the candidates over a reading of SRC (46_bilinear_upsampler.md R96). -/
theorem exec_expand_averages {s : State} (hvalid : s.srcValid = true) (hfit : 4 * u s.srcW * u s.srcH ≤ s.maxpix) :
    ∃ t, exec .expand s = .next t ∧ onlyDestination s t (2 * u s.srcW) (2 * u s.srcH) ∧
      ∀ i j, i < 2 * u s.srcH → j < 2 * u s.srcW → ∃ S, readsSource s S ∧
        t.dst.read? (i * (2 * u s.srcW) + j) =
          some (averageOf { w := u s.srcW, h := u s.srcH, px := S } (expandCandidates i j)) :=
  ⟨_, exec_expand hvalid hfit, onlyDestination_writeDestination s _ _ _, fun _ _ hi hj =>
    ⟨_, readsSource_srcWord s _, State.read?_writeDestination_pixel s _ hi hj⟩⟩

/-- Settles O41: the image is checked before the room for its double, and source pixel `(r, c)` gives the four destination
pixels of its parities, each with its own candidates. -/
theorem expandAveragesCandidatesOrFaults : Obligations.ExpandAveragesCandidatesOrFaults := by
  intro s
  refine ⟨decode_encode .expand, fun hinvalid => exec_badImage (.inr (.inr (.inr (.inr rfl)))) (srcValid_eq_false hinvalid),
    fun hvalid hover => exec_expand_fault (srcValid_iff_validSource.2 hvalid) hover, fun hvalid hfit => ?averages⟩
  case averages =>
    obtain ⟨t, ht, hframe, hpixel⟩ := exec_expand_averages (srcValid_iff_validSource.2 hvalid) hfit
    refine ⟨t, ht, hframe, fun r c (hr : r < u s.srcH) (hc : c < u s.srcW) => ?_⟩
    rw [← expandCandidates_even_even, ← expandCandidates_even_odd, ← expandCandidates_odd_even, ← expandCandidates_odd_odd]
    exact ⟨hpixel (2 * r) (2 * c) (by omega) (by omega), hpixel (2 * r) (2 * c + 1) (by omega) (by omega),
      hpixel (2 * r + 1) (2 * c) (by omega) (by omega), hpixel (2 * r + 1) (2 * c + 1) (by omega) (by omega)⟩

end Sys2Proof.Machine
end

section
/-! Faults (60_exceptions.md): fault entry is all that a faulting command does (R106), the causes each command can enter (R103),
and the reset input as the only exit (R108). -/

namespace Sys2Proof.Machine
open Sys2Proof.Statements

/-- No effect of a command sets or clears FAULT. -/
theorem Effect.faulted {s t : State} {i : Instr} (he : Effect s i t) : t.faulted = s.faulted :=
  congrArg (BitVec.getLsbD · 0) he.faultRegisters.1

/-- A command that ends faulted has entered a fault, with its own word in FCMD, and has done nothing else. -/
theorem eq_enterFault_of_exec_faulted {i : Instr} {s t : State} (hf : s.faulted = false) (hexec : exec i s = .next t)
    (ht : t.faulted = true) : ∃ c, t = s.enterFault c (encode i) := by
  obtain hfault | he := exec_next_cases hexec
  · exact hfault
  · rw [he.faulted, hf] at ht
    exact absurd ht Bool.false_ne_true

/-- Settles O25: the one thing a faulting command does is fault entry, and that writes STATUS, CAUSE and FCMD only. -/
theorem faultsArePrecise : Obligations.FaultsArePrecise := by
  intro i s t hf hexec ht
  obtain ⟨c, rfl⟩ := eq_enterFault_of_exec_faulted hf hexec ht
  rfl

/-- Every command goes on with FAULT as it was, or enters a fault that its row of 60_exceptions.md R103 gives it. -/
theorem exec_keeps_faulted_or_mayRaise (i : Instr) (s : State) :
    (∃ t, exec i s = .next t ∧ t.faulted = s.faulted) ∨
      ∃ c, causeCode c ∈ mayRaise i ∧ exec i s = .next (s.enterFault c (encode i)) := by
  cases i with
  | chan k => exact .inl ⟨_, exec_chan k s, State.faulted_setRes s _⟩
  | pack =>
    by_cases hbytes : u s.a0 ≤ 255 ∧ u s.a1 ≤ 255 ∧ u s.a2 ≤ 255 ∧ u s.a3 ≤ 255
    · exact .inl ⟨_, exec_pack hbytes, State.faulted_setRes s _⟩
    · exact .inr ⟨.badOperand, by decide, exec_pack_fault (by omega)⟩
  | idx =>
    by_cases hdomain : 1 ≤ u s.a0 ∧ 0 ≤ sgn s.a1 ∧ 0 ≤ sgn s.a2 ∧ sgn s.a2 < (u s.a0 : Int)
    · by_cases hfit : index (u s.a0) (sgn s.a1) (sgn s.a2) < 4294967296
      · exact .inl ⟨_, exec_idx hdomain hfit, State.faulted_setRes s _⟩
      · exact .inr ⟨.badCoord, by decide, exec_idx_fault (.inr (Nat.le_of_not_lt hfit))⟩
    · exact .inr ⟨.badCoord, by decide, exec_idx_fault (.inl hdomain)⟩
  | inb => exact .inl ⟨_, exec_inb s, State.faulted_setRes s _⟩
  | aclr => exact .inl ⟨_, exec_aclr s, rfl⟩
  | aing =>
    by_cases hfull : u s.count = Config.countMax
    · exact .inr ⟨.countOverflow, by decide, exec_aing_fault hfull⟩
    · exact .inl ⟨_, exec_aing hfull, State.faulted_setAverager s _⟩
  | aingi =>
    by_cases hvalid : s.srcValid = true
    · by_cases hin : inBounds (u s.srcW) (u s.srcH) (sgn s.a0) (sgn s.a1) = true
      · by_cases hfull : u s.count = Config.countMax
        · exact .inr ⟨.countOverflow, by decide, exec_aingi_fault hvalid hin hfull⟩
        · exact .inl ⟨_, exec_aingi hvalid hin hfull, State.faulted_setAverager s _⟩
      · exact .inl ⟨s, exec_aingi_skip hvalid (Bool.eq_false_iff.2 hin), rfl⟩
    · exact .inr ⟨.badImage, by decide, exec_badImage (by decide) (Bool.eq_false_iff.2 hvalid)⟩
  | aavg => exact .inl ⟨_, exec_aavg s, State.faulted_setRes s _⟩
  | squash =>
    by_cases hvalid : s.srcValid = true
    · by_cases hfactors : u s.a0 ≠ 0 ∧ u s.a1 ≠ 0
      · exact .inl ⟨_, exec_squash hvalid hfactors, State.faulted_writeDestination s _ _ _⟩
      · exact .inr ⟨.badParam, by decide, exec_squash_fault hvalid (by omega)⟩
    · exact .inr ⟨.badImage, by decide, exec_badImage (by decide) (Bool.eq_false_iff.2 hvalid)⟩
  | crot =>
    by_cases hvalid : s.srcValid = true
    · exact .inl ⟨_, exec_crot hvalid, State.faulted_writeDestination s _ _ _⟩
    · exact .inr ⟨.badImage, by decide, exec_badImage (by decide) (Bool.eq_false_iff.2 hvalid)⟩
  | blur =>
    by_cases hvalid : s.srcValid = true
    · by_cases hneg : sgn s.a0 < 0
      · exact .inr ⟨.badParam, by decide, exec_blur_fault hvalid hneg⟩
      · have hdist : sgn s.a0 = ((sgn s.a0).toNat : Int) := (Int.toNat_of_nonneg (Int.not_lt.1 hneg)).symm
        exact .inl ⟨_, exec_blur hvalid hdist, State.faulted_writeDestination s _ _ _⟩
    · exact .inr ⟨.badImage, by decide, exec_badImage (by decide) (Bool.eq_false_iff.2 hvalid)⟩
  | expand =>
    by_cases hvalid : s.srcValid = true
    · by_cases hfit : 4 * u s.srcW * u s.srcH ≤ s.maxpix
      · exact .inl ⟨_, exec_expand hvalid hfit, State.faulted_writeDestination s _ _ _⟩
      · exact .inr ⟨.dstOverflow, by decide, exec_expand_fault hvalid (Nat.lt_of_not_le hfit)⟩
    · exact .inr ⟨.badImage, by decide, exec_badImage (by decide) (Bool.eq_false_iff.2 hvalid)⟩

/-- A command run in a not-faulted state enters only the causes of its row (60_exceptions.md R103, the blank entries). -/
theorem cause_mem_mayRaise_of_exec_faulted {i : Instr} {s t : State} (hf : s.faulted = false)
    (hexec : exec i s = .next t) (ht : t.faulted = true) : t.cause ∈ mayRaise i := by
  obtain ⟨t', ht', hkept⟩ | ⟨c, hc, hfault⟩ := exec_keeps_faulted_or_mayRaise i s
  · obtain rfl : t' = t := Host.Outcome.next.inj (ht'.symm.trans hexec)
    rw [hkept, hf] at ht
    exact absurd ht Bool.false_ne_true
  · obtain rfl : s.enterFault c (encode i) = t := Host.Outcome.next.inj (hfault.symm.trans hexec)
    exact hc

/-- Some state within the invariant, not faulted, in which command `i` enters the cause with code `c`. -/
def Raises (i : Instr) (c : Word) : Prop :=
  ∃ s t, State.Inv s ∧ s.faulted = false ∧ exec i s = .next t ∧ t.faulted = true ∧ t.cause = c

/-- A block of one word in each memory after reset, A0, COUNT and a square source descriptor apart: the state in which each
entry of 60_exceptions.md R103 is shown to happen. -/
def oneWordBlock (a0 size count : Word) : State :=
  { State.resetWith 1 with a0 := a0, srcW := size, srcH := size, count := count }

theorem oneWordBlock_faulted (a0 size count : Word) : (oneWordBlock a0 size count).faulted = false :=
  State.resetWith_faulted 1

theorem inv_oneWordBlock (a0 size : Word) {count : Word} (h : u count ≤ Config.countMax) :
    (oneWordBlock a0 size count).Inv where
  maxpix_pos := Nat.le_refl 1
  maxpix_le := (by decide : 1 ≤ Config.maxpixLimit)
  averager := ⟨h, Nat.zero_le _, Nat.zero_le _, Nat.zero_le _, Nat.zero_le _⟩
  faultRegs := ⟨.inl rfl, Nat.zero_le 7,
    iff_of_false (Bool.eq_false_iff.1 (oneWordBlock_faulted a0 size count)) fun h => h rfl, fun _ => rfl⟩
  memories := ⟨Memory.wf_nil, Memory.below_nil 1, Memory.wf_nil, Memory.below_nil 1⟩
  dst_fits := Nat.zero_le 1

/-- An image of one pixel is valid in a block of one word (10_state.md R18). -/
theorem oneWordBlock_srcValid (a0 count : Word) : (oneWordBlock a0 1 count).srcValid = true := by
  rw [srcValid_iff]
  exact ⟨Nat.le_refl 1, Nat.le_refl 1, Nat.le_refl 1⟩

theorem raises_in_oneWordBlock {i : Instr} {c : Cause} (a0 size count : Word) (h : u count ≤ Config.countMax)
    (hexec : exec i (oneWordBlock a0 size count) = .next ((oneWordBlock a0 size count).enterFault c (encode i))) :
    Raises i (causeCode c) :=
  ⟨_, _, inv_oneWordBlock a0 size h, oneWordBlock_faulted a0 size count, hexec, State.enterFault_faulted _ c (encode i), rfl⟩

/-- With the descriptor as reset leaves it there is no source image, and each command that needs one faults. -/
theorem raises_badImage {i : Instr} (hi : i = .aingi ∨ i = .squash ∨ i = .crot ∨ i = .blur ∨ i = .expand) : Raises i 4 :=
  raises_in_oneWordBlock 0 0 0 (by decide) (exec_badImage hi (by decide))

/-- Each entry of 60_exceptions.md R103 can happen: a missing image for BAD_IMAGE, and otherwise, on an image of one pixel
where the command needs one, a byte of 256, a width of 0, a full averager, a factor of 0, a distance of -1, or no room for
the doubled image. -/
theorem raises_of_mem_mayRaise (i : Instr) : ∀ c ∈ mayRaise i, Raises i c := by
  cases i with
  | chan | inb | aclr | aavg => exact List.forall_mem_nil _
  | pack => exact List.forall_mem_singleton.2 (raises_in_oneWordBlock 256 0 0 (by decide) (exec_pack_fault (by decide)))
  | idx => exact List.forall_mem_singleton.2 (raises_in_oneWordBlock 0 0 0 (by decide) (exec_idx_fault (by decide)))
  | aing =>
    exact List.forall_mem_singleton.2 (raises_in_oneWordBlock 0 0 0x01000000 (by decide) (exec_aing_fault (by decide)))
  | aingi =>
    refine List.forall_mem_cons.2 ⟨raises_badImage (by decide), List.forall_mem_singleton.2 ?_⟩
    exact raises_in_oneWordBlock 0 1 0x01000000 (by decide)
      (exec_aingi_fault (oneWordBlock_srcValid 0 _) (by decide) (by decide))
  | squash =>
    refine List.forall_mem_cons.2 ⟨raises_badImage (by decide), List.forall_mem_singleton.2 ?_⟩
    exact raises_in_oneWordBlock 0 1 0 (by decide) (exec_squash_fault (oneWordBlock_srcValid 0 0) (by decide))
  | crot => exact List.forall_mem_singleton.2 (raises_badImage (by decide))
  | blur =>
    refine List.forall_mem_cons.2 ⟨raises_badImage (by decide), List.forall_mem_singleton.2 ?_⟩
    exact raises_in_oneWordBlock 0xFFFFFFFF 1 0 (by decide) (exec_blur_fault (oneWordBlock_srcValid _ 0) (by decide))
  | expand =>
    refine List.forall_mem_cons.2 ⟨raises_badImage (by decide), List.forall_mem_singleton.2 ?_⟩
    exact raises_in_oneWordBlock 0 1 0 (by decide) (exec_expand_fault (oneWordBlock_srcValid 0 0) (by decide))

/-- Settles O28: a command enters no cause outside its row, and a state within the invariant shows each entry of the row. -/
theorem faultTable : Obligations.FaultTable :=
  ⟨fun _ _ _ => cause_mem_mayRaise_of_exec_faulted, raises_of_mem_mayRaise⟩

/-- In the faulted state every input but reset leaves the block alone: nothing pending is waiting, a read only answers, and a
write is refused (60_exceptions.md R105). -/
theorem step_of_faulted {s : State} (hf : s.faulted = true) (hreset : ¬ resetNext s) :
    ∃ inputs epoch responses, step s = .next { s with inputs := inputs, epoch := epoch, responses := responses } := by
  match hin : s.inputs with
  | [] => exact ⟨_, _, _, step_idle hin⟩
  | .reset :: rest => exact absurd ⟨rest, hin⟩ hreset
  | .transaction (.rd a) :: rest =>
    obtain ⟨r, hr⟩ := hostRead_cases a (s.accept rest)
    exact ⟨_, _, _, (step_read hin).trans hr⟩
  | .transaction (.wr a d) :: rest => exact ⟨_, _, _, step_refused hin (.inr ⟨hf, a, d, rfl⟩)⟩

/-- The reset input gives the reset state, from every state (70_reset_and_hazards.md R120). -/
theorem step_of_resetNext {s : State} (hreset : resetNext s) :
    ∃ t, step s = .next t ∧ isResetState t ∧ t.faulted = false := by
  obtain ⟨rest, hin⟩ := hreset
  exact ⟨_, step_reset hin, isResetState_resetWith s.maxpix, State.takeReset_faulted _⟩

/-- Settles O18: what a faulted block does with the next input, reset or not. -/
theorem onlyResetLeavesTheFaultedState : Obligations.OnlyResetLeavesTheFaultedState := by
  intro s t hf hstep
  refine ⟨fun hreset => ?kept, fun hreset => ?left⟩
  case kept =>
    obtain ⟨_, _, _, ht⟩ := step_of_faulted hf hreset
    obtain rfl := Host.Outcome.next.inj (ht.symm.trans hstep)
    exact ⟨hf, rfl⟩
  case left =>
    obtain ⟨t', ht, hstate⟩ := step_of_resetNext hreset
    obtain rfl : t' = t := Host.Outcome.next.inj (ht.symm.trans hstep)
    exact hstate

end Sys2Proof.Machine
end

section
/-! The encoding (30_encoding.md): decoding and encoding are inverse, and what the pseudo-instructions expand to. -/

namespace Sys2Proof.Machine
open Sys2Proof.Statements

/-- Settles O1: each direction is a law of the decoder. -/
theorem decodeAndEncodeAgree : Obligations.DecodeAndEncodeAgree :=
  ⟨fun i _ => decode_encode i, fun _ _ => decode_ok⟩

/-- Settles O2: each of the seven words is the encoding of its command. -/
theorem opcodeWordsDecode : Obligations.OpcodeWordsDecode :=
  ⟨decode_encode (.chan .red), decode_encode (.chan .green), decode_encode (.chan .blue), decode_encode (.chan .alpha),
    decode_encode .inb, decode_encode .aavg, decode_encode .expand⟩

/-- LOADSRC writes its values in order, to ascending words of SRC (30_encoding.md R57). -/
theorem loadFrom_eq_mapIdx (n : Nat) (vs : List Word) :
    loadFrom n vs = vs.mapIdx fun k v => .wr (placeAddress (.src (n + k))) v := by
  induction vs generalizing n with
  | nil => rfl
  | cons v vs ih => simp only [loadFrom, ih, List.mapIdx_cons, Nat.add_zero, Nat.add_assoc, Nat.add_comm 1]

/-- Settles O5: the table of 30_encoding.md R57 row by row, and LOADSRC by its length. -/
theorem pseudoInstructionsExpand : Obligations.PseudoInstructionsExpand := by
  intro a b c d
  refine ⟨rfl, rfl, rfl, rfl, rfl, rfl, rfl, rfl, rfl, rfl, rfl, rfl, rfl, fun vs n v hv => ?loadSrc⟩
  case loadSrc =>
    have hload : expandLine (.loadSrc vs) = vs.mapIdx fun k v => .wr (placeAddress (.src (0 + k))) v :=
      loadFrom_eq_mapIdx 0 vs
    rw [hload]
    refine ⟨?word, List.length_mapIdx⟩
    case word =>
      rw [List.getElem?_mapIdx, hv, Nat.zero_add]
      rfl

end Sys2Proof.Machine
end

section
/-! The step (20_memory.md, 70_reset_and_hazards.md R120): a command, two transactions in a row, and the reset input. -/

namespace Sys2Proof.Machine
open Sys2Proof.Statements

/-- Settles O6: the clause of a defined write to CMD. -/
theorem stepRunsDecodedCommand : Obligations.StepRunsDecodedCommand := by
  intro s rest w i hin hf hi
  obtain ⟨-, -, -, -, -, -, -, -, hcommand, -⟩ := definedWritesStore s rest 0 w hin hf
  exact hcommand rfl i hi

/-- Settles O7: every case of a step is a next state. -/
theorem everyStepAnswersNext : Obligations.EveryStepAnswersNext := fun s =>
  let ⟨t, ht, _⟩ := step_cases s
  ⟨t, ht⟩

/-- A write into the SRC window (20_memory.md R37). -/
theorem eq_answered_of_write_src {s t : State} {rest : List Input} {n : Nat} {v : Word} (hstep : step s = .next t)
    (hin : s.inputs = .transaction (.wr (BitVec.ofNat 32 (0x40000000 + n)) v) :: rest) (hf : s.faulted = false)
    (hb : n < s.maxpix) (hn : n < 2 ^ 30) : t = answered { s with src := s.src.write n v } rest .ok :=
  have hl : locate s.maxpix (BitVec.ofNat 32 (0x40000000 + n)) = some (.src n) :=
    locate_src (u_toWord (by omega)) hb hn
  Host.Outcome.next.inj (hstep.symm.trans ((step_write hin).trans (hostWrite_src (s := s.accept rest) hf hl v)))

/-- A write into the DST window (20_memory.md R37). -/
theorem eq_answered_of_write_dst {s t : State} {rest : List Input} {n : Nat} {v : Word} (hstep : step s = .next t)
    (hin : s.inputs = .transaction (.wr (BitVec.ofNat 32 (0x80000000 + n)) v) :: rest) (hf : s.faulted = false)
    (hb : n < s.maxpix) (hn : n < 2 ^ 30) : t = answered { s with dst := s.dst.write n v } rest .ok :=
  have hl : locate s.maxpix (BitVec.ofNat 32 (0x80000000 + n)) = some (.dst n) :=
    locate_dst (u_toWord (by omega)) hb hn
  Host.Outcome.next.inj (hstep.symm.trans ((step_write hin).trans (hostWrite_dst (s := s.accept rest) hf hl v)))

/-- A read of a written word of SRC (20_memory.md R38). -/
theorem eq_answered_of_read_src {s t : State} {rest : List Input} {n : Nat} {v : Word} (hstep : step s = .next t)
    (hin : s.inputs = .transaction (.rd (BitVec.ofNat 32 (0x40000000 + n))) :: rest)
    (hb : n < s.maxpix) (hn : n < 2 ^ 30) (hv : s.src.read? n = some v) : t = answered s rest (.okValue v) := by
  obtain ⟨-, hsrc, -⟩ := definedReadsAnswerCurrentValue s rest
  obtain ⟨x, hx, hvalue⟩ := hsrc n hb hn hin
  rw [← hvalue v hv]
  exact Host.Outcome.next.inj (hstep.symm.trans hx)

/-- A read of a written word of DST (20_memory.md R38). -/
theorem eq_answered_of_read_dst {s t : State} {rest : List Input} {n : Nat} {v : Word} (hstep : step s = .next t)
    (hin : s.inputs = .transaction (.rd (BitVec.ofNat 32 (0x80000000 + n))) :: rest)
    (hb : n < s.maxpix) (hn : n < 2 ^ 30) (hv : s.dst.read? n = some v) : t = answered s rest (.okValue v) := by
  obtain ⟨-, -, hdst⟩ := definedReadsAnswerCurrentValue s rest
  obtain ⟨x, hx, hvalue⟩ := hdst n hb hn hin
  rw [← hvalue v hv]
  exact Host.Outcome.next.inj (hstep.symm.trans hx)

theorem Memory.read?_write_same (m : Memory) (n : Nat) (v : Word) : (m.write n v).read? n = some v := by
  rw [Memory.read?_write, if_pos rfl]

/-- Settles O13: the read is of the memory the write has stored to, and neither touches the other memory. -/
theorem writtenWordReadsBack : Obligations.WrittenWordReadsBack := by
  intro s t t' rest n v hf hb hn
  refine ⟨fun hin hwrite hread => ?src, fun hin hwrite hread => ?dst⟩
  case src =>
    obtain rfl := eq_answered_of_write_src hwrite hin hf hb hn
    obtain rfl := eq_answered_of_read_src hread rfl hb hn (Memory.read?_write_same s.src n v)
    exact ⟨List.append_assoc s.responses [.ok] [.okValue v], rfl⟩
  case dst =>
    obtain rfl := eq_answered_of_write_dst hwrite hin hf hb hn
    obtain rfl := eq_answered_of_read_dst hread rfl hb hn (Memory.read?_write_same s.dst n v)
    exact ⟨List.append_assoc s.responses [.ok] [.okValue v], rfl⟩

/-- Settles O15: the registers and memories are those of the reset state of the same size, the rest is the model's own. -/
theorem resetInputGivesResetState : Obligations.ResetInputGivesResetState := fun s _ hin =>
  ⟨_, step_reset hin, isResetState_resetWith s.maxpix, State.takeReset_faulted _, rfl, rfl, rfl⟩

end Sys2Proof.Machine
end

section
/-! The invariant: it holds at reset, and the host port, fault entry and every effect of a command keep it. -/

namespace Sys2Proof.Machine
open Sys2Proof.Statements

/-- The bounds of 10_state.md R20 are those of 42_averager.md R72 for the value the five registers hold. -/
theorem averagerBounds_iff {s : State} :
    s.AveragerBounds ↔ s.averager.Bounded ∧ s.averager.n ≤ Config.countMax :=
  ⟨fun h => ⟨averager_bounded h, h.count_le⟩, fun ⟨⟨hr, hg, hb, ha⟩, hn⟩ => ⟨hn, hr, hg, hb, ha⟩⟩

theorem State.AveragerBounds.congr {s t : State} (h : s.AveragerBounds) (ht : t.averager = s.averager) :
    t.AveragerBounds :=
  averagerBounds_iff.2 (ht ▸ averagerBounds_iff.1 h)

theorem State.FaultRegisters.congr {s t : State} (h : s.FaultRegisters) (hstatus : t.status = s.status)
    (hcause : t.cause = s.cause) (hfcmd : t.fcmd = s.fcmd) : t.FaultRegisters := by
  obtain ⟨hbits, hle, hiff, hzero⟩ := h
  have hfaulted : t.faulted = s.faulted := congrArg (BitVec.getLsbD · 0) hstatus
  exact ⟨hstatus ▸ hbits, hcause ▸ hle, hfaulted ▸ hcause ▸ hiff, hfaulted ▸ hfcmd ▸ hzero⟩

/-- Other contents of the memories that fit keep the invariant, with a destination image that fits. -/
theorem State.Inv.withMemories {s : State} (h : s.Inv) {m d : Memory} {x y : Word}
    (hmemories : ({ s with src := m, dst := d } : State).MemoriesFit) (hfits : u x * u y ≤ s.maxpix) :
    ({ s with src := m, dst := d, dstW := x, dstH := y } : State).Inv where
  maxpix_pos := h.maxpix_pos
  maxpix_le := h.maxpix_le
  averager := h.averager.congr rfl
  faultRegs := h.faultRegs.congr rfl rfl rfl
  memories := ⟨hmemories.src_wf, hmemories.src_below, hmemories.dst_wf, hmemories.dst_below⟩
  dst_fits := hfits

/-- What the invariant speaks of: the state with everything else put to 0. -/
def State.invariantPart (s : State) : State :=
  { s with a0 := 0, a1 := 0, a2 := 0, a3 := 0, res := 0, srcW := 0, srcH := 0, epoch := 0, inputs := [], responses := [] }

theorem inv_invariantPart_iff {s : State} : s.invariantPart.Inv ↔ s.Inv := by
  constructor <;> rintro ⟨hpos, hle, havg, hfault, ⟨hsrcWf, hsrc, hdstWf, hdst⟩, hfits⟩ <;>
    exact ⟨hpos, hle, havg.congr rfl, hfault.congr rfl rfl rfl, ⟨hsrcWf, hsrc, hdstWf, hdst⟩, hfits⟩

/-- A state that differs only in what the invariant does not speak of has it too. -/
theorem State.Inv.congr {s t : State} (h : s.Inv) (ht : t.invariantPart = s.invariantPart) : t.Inv :=
  inv_invariantPart_iff.1 (ht ▸ inv_invariantPart_iff.2 h)

theorem inv_resetWith {n : Nat} (hpos : 1 ≤ n) (hle : n ≤ Config.maxpixLimit) : (State.resetWith n).Inv where
  maxpix_pos := hpos
  maxpix_le := hle
  averager := averagerBounds_iff.2 ⟨fresh_bounded, Nat.zero_le _⟩
  faultRegs := ⟨.inl rfl, Nat.zero_le 7, iff_of_false (Bool.eq_false_iff.1 (State.resetWith_faulted n)) fun h => h rfl,
    fun _ => rfl⟩
  memories := ⟨Memory.wf_nil, Memory.below_nil n, Memory.wf_nil, Memory.below_nil n⟩
  dst_fits := Nat.zero_le n

/-- Settles O16: the reset state of every size, and the one of the suggested size. -/
theorem invariantHoldsAtReset : Obligations.InvariantHoldsAtReset :=
  ⟨fun _ => inv_resetWith, inv_resetWith (by decide) (by decide)⟩

theorem State.Inv.accept {s : State} (h : s.Inv) (rest : List Input) : (s.accept rest).Inv := h.congr rfl

theorem State.Inv.respond {s : State} (h : s.Inv) (r : Response) : (s.respond r).Inv := h.congr rfl

/-- The reset input keeps MAXPIX, and gives the rest its value at reset (70_reset_and_hazards.md R120). -/
theorem State.Inv.takeReset {s : State} (h : s.Inv) : s.takeReset.Inv :=
  (inv_resetWith h.maxpix_pos h.maxpix_le).congr rfl

/-- Fault entry leaves STATUS, CAUSE and FCMD in agreement (10_state.md R14, R15). -/
theorem State.FaultRegisters.enterFault {s : State} (h : s.FaultRegisters) (c : Cause) (w : Word) :
    (s.enterFault c w).FaultRegisters where
  status_bits := by
    rw [State.enterFault_status]
    obtain hs | hs := h.status_bits <;> rw [hs] <;> exact .inr rfl
  cause_le := (causeCode_range c).2
  faulted_iff := iff_of_true (State.enterFault_faulted s c w) (causeCode_ne_zero c)
  fcmd_zero := fun hf => absurd (State.enterFault_faulted s c w) (Bool.eq_false_iff.1 hf)

theorem State.Inv.enterFault {s : State} (h : s.Inv) (c : Cause) (w : Word) : (s.enterFault c w).Inv where
  maxpix_pos := h.maxpix_pos
  maxpix_le := h.maxpix_le
  averager := h.averager.congr rfl
  faultRegs := h.faultRegs.enterFault c w
  memories := ⟨h.memories.src_wf, h.memories.src_below, h.memories.dst_wf, h.memories.dst_below⟩
  dst_fits := h.dst_fits

/-- An averager value within its bounds is stored without wrap, and so within the bounds of 10_state.md R20. -/
theorem State.Inv.setAverager {s : State} (h : s.Inv) {v : Averager} (hbounded : v.Bounded)
    (hcount : v.n ≤ Config.countMax) : (s.setAverager v).Inv where
  maxpix_pos := h.maxpix_pos
  maxpix_le := h.maxpix_le
  averager := averagerBounds_iff.2 (by rw [State.averager_setAverager hbounded hcount]; exact ⟨hbounded, hcount⟩)
  faultRegs := h.faultRegs.congr rfl rfl rfl
  memories := ⟨h.memories.src_wf, h.memories.src_below, h.memories.dst_wf, h.memories.dst_below⟩
  dst_fits := h.dst_fits

/-- A destination image that fits has its words inside DST, and its stored size is no larger than the image. -/
theorem State.Inv.writeDestination {s : State} (hs : s.Inv) {w h : Nat} (hfit : w * h ≤ s.maxpix)
    (px : Nat → Nat → Word) : (s.writeDestination w h px).Inv :=
  hs.withMemories (x := toWord w) (y := toWord h)
    ⟨hs.memories.src_wf, hs.memories.src_below, Memory.wf_writeImage hs.memories.dst_wf w h px,
      Memory.below_writeImage hs.memories.dst_below hfit px⟩
    ((Nat.mul_le_mul (u_toWord_le w) (u_toWord_le h)).trans hfit)

/-- A host write to a memory is inside it, and one to a register is to one the invariant does not speak of. -/
theorem Stored.inv {s t : State} (hstored : Stored s t) (h : s.Inv) : t.Inv := by
  have hm := h.memories
  cases hstored with
  | refused | a0 | a1 | a2 | a3 | srcW | srcH => exact h.congr rfl
  | src n d hn =>
    exact (h.withMemories (m := s.src.write n d)
      ⟨Memory.wf_write hm.src_wf n d, Memory.below_write hm.src_below hn d, hm.dst_wf, hm.dst_below⟩
      h.dst_fits).respond .ok
  | dst n d hn =>
    exact (h.withMemories (d := s.dst.write n d)
      ⟨hm.src_wf, hm.src_below, Memory.wf_write hm.dst_wf n d, Memory.below_write hm.dst_below hn d⟩
      h.dst_fits).respond .ok

theorem Effect.inv {s t : State} {i : Instr} (he : Effect s i t) (h : s.Inv) : t.Inv := by
  cases he with
  | result | skip => exact h.congr rfl
  | averager v hi hv hb =>
    obtain ⟨hbounded, hcount⟩ := hb h.averager
    exact h.setAverager hbounded hcount
  | destination w h px hi hfit => exact State.Inv.writeDestination ‹_› hfit px

/-- Settles O17: each case of a step keeps the invariant. -/
theorem invariantKeptByEveryStep : Obligations.InvariantKeptByEveryStep := by
  intro s t h hstep
  cases step_next_cases hstep with
  | idle => exact h
  | reset rest hin => exact (h.accept rest).takeReset
  | read rest a r hin => exact (h.accept rest).respond r
  | store rest a d t hin hs => exact hs.inv (h.accept rest)
  | fault rest w c hin hf => exact ((h.accept rest).enterFault c w).respond .ok
  | command rest w i t hin hf hi he => exact (he.inv (h.accept rest)).respond .ok

end Sys2Proof.Machine
end

section
/-! A command as a function of the state: the checks that raise its fault, and the deed it does where they pass. What each of
the two reads stands in its definition, so two runs are compared through them (60_exceptions.md R101, 00_scope.md R9). -/

namespace Sys2Proof.Machine
open Sys2Proof.Statements

/-- A check of a command: the fault it raises where the condition fails. -/
def check (p : Prop) [Decidable p] (c : Cause) : Option Cause := if p then none else some c

theorem check_eq_none_iff {p : Prop} [Decidable p] {c : Cause} : check p c = none ↔ p := by
  unfold check
  split <;> simp [*]

/-- The fault a command raises, if any: its row of 60_exceptions.md R102, the checks in their order. -/
def faultOf (s : State) : Instr → Option Cause
  | .chan _ | .inb | .aclr | .aavg => none
  | .pack => check (u s.a0 ≤ 255 ∧ u s.a1 ≤ 255 ∧ u s.a2 ≤ 255 ∧ u s.a3 ≤ 255) .badOperand
  | .idx => (check (1 ≤ u s.a0 ∧ 0 ≤ sgn s.a1 ∧ 0 ≤ sgn s.a2 ∧ sgn s.a2 < (u s.a0 : Int)) .badCoord).or
      (check (index (u s.a0) (sgn s.a1) (sgn s.a2) < 4294967296) .badCoord)
  | .aing => check (u s.count ≠ Config.countMax) .countOverflow
  | .aingi => (check (s.srcValid = true) .badImage).or
      (check (inBounds (u s.srcW) (u s.srcH) (sgn s.a0) (sgn s.a1) = true → u s.count ≠ Config.countMax) .countOverflow)
  | .squash => (check (s.srcValid = true) .badImage).or (check (u s.a0 ≠ 0 ∧ u s.a1 ≠ 0) .badParam)
  | .crot => check (s.srcValid = true) .badImage
  | .blur => (check (s.srcValid = true) .badImage).or (check (0 ≤ sgn s.a0) .badParam)
  | .expand => (check (s.srcValid = true) .badImage).or (check (4 * u s.srcW * u s.srcH ≤ s.maxpix) .dstOverflow)

/-- What a command writes: RES, the averager, nothing, or the destination (10_state.md R12). -/
inductive Deed where
  | result (v : Word)
  | averager (v : Averager)
  | skip
  | destination (w h : Nat) (px : Nat → Nat → Word)

/-- What a command that raises no fault writes. -/
def deedOf (s : State) : Instr → Deed
  | .chan k => .result (toWord (chan s.a0 k))
  | .pack => .result (pack (u s.a0) (u s.a1) (u s.a2) (u s.a3))
  | .idx => .result (toWord (index (u s.a0) (sgn s.a1) (sgn s.a2)))
  | .inb => .result (boolWord (inBounds (u s.a0) (u s.a1) (sgn s.a2) (sgn s.a3)))
  | .aclr => .averager fresh
  | .aing => .averager (ingest s.averager s.a0)
  | .aingi =>
    if inBounds (u s.srcW) (u s.srcH) (sgn s.a0) (sgn s.a1) = true then
      .averager (ingest s.averager (s.srcWord 0 (index (u s.srcW) (sgn s.a0) (sgn s.a1))))
    else .skip
  | .aavg => .result (average s.averager)
  | .squash => .destination (u s.srcW / u s.a0) (u s.srcH / u s.a1) fun i j =>
      squashPx (s.sourceImage (i * (u s.srcW / u s.a0) + j)) (u s.a0) (u s.a1) i j
  | .crot => .destination (u s.srcW) (u s.srcH) fun i j => rot (s.srcWord (i * u s.srcW + j) (i * u s.srcW + j))
  | .blur => .destination (u s.srcW) (u s.srcH) fun i j =>
      blurPx (s.sourceImage (i * u s.srcW + j)) i j (sgn s.a0).toNat
  | .expand => .destination (2 * u s.srcW) (2 * u s.srcH) fun i j =>
      expandPx (s.sourceImage (i * (2 * u s.srcW) + j)) i j

def State.perform (s : State) : Deed → State
  | .result v => { s with res := v }
  | .averager v => s.setAverager v
  | .skip => s
  | .destination w h px => s.writeDestination w h px

/-- The next state a command answers: it enters the fault it raises, or does its deed. -/
def nextOf (s : State) (i : Instr) : State :=
  match faultOf s i with
  | some c => s.enterFault c (encode i)
  | none => s.perform (deedOf s i)

theorem nextOf_of_some {s : State} {i : Instr} {c : Cause} (h : faultOf s i = some c) :
    nextOf s i = s.enterFault c (encode i) := by
  rw [nextOf, h]

theorem nextOf_of_none {s : State} {i : Instr} (h : faultOf s i = none) : nextOf s i = s.perform (deedOf s i) := by
  rw [nextOf, h]

theorem exec_eq_nextOf_of_some {i : Instr} {s : State} {c : Cause}
    (hexec : exec i s = .next (s.enterFault c (encode i))) (h : faultOf s i = some c) : exec i s = .next (nextOf s i) := by
  rw [hexec, nextOf_of_some h]

theorem exec_eq_nextOf_of_none {i : Instr} {s : State} (hexec : exec i s = .next (s.perform (deedOf s i)))
    (h : faultOf s i = none) : exec i s = .next (nextOf s i) := by
  rw [hexec, nextOf_of_none h]

/-- With no valid image the five commands that need one raise BAD_IMAGE (60_exceptions.md R103). -/
theorem exec_eq_nextOf_of_not_srcValid {i : Instr} {s : State}
    (hi : i = .aingi ∨ i = .squash ∨ i = .crot ∨ i = .blur ∨ i = .expand) (hvalid : ¬ s.srcValid = true) :
    exec i s = .next (nextOf s i) := by
  refine exec_eq_nextOf_of_some (exec_badImage hi (Bool.eq_false_iff.2 hvalid)) ?_
  obtain rfl | rfl | rfl | rfl | rfl := hi <;> simp [faultOf, check, hvalid]

/-- The two functions are the meaning of every command. -/
theorem exec_eq_nextOf (i : Instr) (s : State) : exec i s = .next (nextOf s i) := by
  cases i with
  | chan | inb | aclr | aavg => exact exec_eq_nextOf_of_none rfl rfl
  | pack =>
    by_cases hbytes : u s.a0 ≤ 255 ∧ u s.a1 ≤ 255 ∧ u s.a2 ≤ 255 ∧ u s.a3 ≤ 255
    · exact exec_eq_nextOf_of_none (exec_pack hbytes) (by simp [faultOf, check, hbytes])
    · exact exec_eq_nextOf_of_some (exec_pack_fault (by omega)) (by rw [faultOf, check, if_neg hbytes])
  | idx =>
    by_cases hdomain : 1 ≤ u s.a0 ∧ 0 ≤ sgn s.a1 ∧ 0 ≤ sgn s.a2 ∧ sgn s.a2 < (u s.a0 : Int)
    · by_cases hfit : index (u s.a0) (sgn s.a1) (sgn s.a2) < 4294967296
      · exact exec_eq_nextOf_of_none (exec_idx hdomain hfit) (by simp [faultOf, check, hdomain, hfit])
      · exact exec_eq_nextOf_of_some (exec_idx_fault (.inr (Nat.le_of_not_lt hfit)))
          (by simp [faultOf, check, hdomain, hfit])
    · exact exec_eq_nextOf_of_some (exec_idx_fault (.inl hdomain)) (by rw [faultOf, check, if_neg hdomain, Option.some_or])
  | aing =>
    by_cases hfull : u s.count = Config.countMax
    · exact exec_eq_nextOf_of_some (exec_aing_fault hfull) (by simp [faultOf, check, hfull])
    · exact exec_eq_nextOf_of_none (exec_aing hfull) (by simp [faultOf, check, hfull])
  | aingi =>
    by_cases hvalid : s.srcValid = true
    · by_cases hin : inBounds (u s.srcW) (u s.srcH) (sgn s.a0) (sgn s.a1) = true
      · by_cases hfull : u s.count = Config.countMax
        · exact exec_eq_nextOf_of_some (exec_aingi_fault hvalid hin hfull) (by simp [faultOf, check, hvalid, hin, hfull])
        · exact exec_eq_nextOf_of_none (by rw [deedOf, if_pos hin]; exact exec_aingi hvalid hin hfull)
            (by simp [faultOf, check, hvalid, hfull])
      · exact exec_eq_nextOf_of_none (by rw [deedOf, if_neg hin]; exact exec_aingi_skip hvalid (Bool.eq_false_iff.2 hin))
          (by simp [faultOf, check, hvalid, hin])
    · exact exec_eq_nextOf_of_not_srcValid (by decide) hvalid
  | squash =>
    by_cases hvalid : s.srcValid = true
    · by_cases hfactors : u s.a0 ≠ 0 ∧ u s.a1 ≠ 0
      · exact exec_eq_nextOf_of_none (exec_squash hvalid hfactors) (by simp [faultOf, check, hvalid, hfactors])
      · exact exec_eq_nextOf_of_some (exec_squash_fault hvalid (by omega))
          (by rw [faultOf, check, if_pos hvalid, check, if_neg hfactors, Option.none_or])
    · exact exec_eq_nextOf_of_not_srcValid (by decide) hvalid
  | crot =>
    by_cases hvalid : s.srcValid = true
    · exact exec_eq_nextOf_of_none (exec_crot hvalid) (by simp [faultOf, check, hvalid])
    · exact exec_eq_nextOf_of_not_srcValid (by decide) hvalid
  | blur =>
    by_cases hvalid : s.srcValid = true
    · by_cases hdist : 0 ≤ sgn s.a0
      · exact exec_eq_nextOf_of_none (exec_blur hvalid (Int.toNat_of_nonneg hdist).symm)
          (by simp [faultOf, check, hvalid, hdist])
      · exact exec_eq_nextOf_of_some (exec_blur_fault hvalid (Int.not_le.1 hdist))
          (by simp [faultOf, check, hvalid, hdist])
    · exact exec_eq_nextOf_of_not_srcValid (by decide) hvalid
  | expand =>
    by_cases hvalid : s.srcValid = true
    · by_cases hfit : 4 * u s.srcW * u s.srcH ≤ s.maxpix
      · exact exec_eq_nextOf_of_none (exec_expand hvalid hfit) (by simp [faultOf, check, hvalid, hfit])
      · exact exec_eq_nextOf_of_some (exec_expand_fault hvalid (Nat.lt_of_not_le hfit))
          (by simp [faultOf, check, hvalid, hfit])
    · exact exec_eq_nextOf_of_not_srcValid (by decide) hvalid

theorem eq_nextOf_of_exec {i : Instr} {s t : State} (h : exec i s = .next t) : t = nextOf s i :=
  Host.Outcome.next.inj (h.symm.trans (exec_eq_nextOf i s))

/-- No deed writes STATUS, CAUSE or FCMD. -/
theorem State.perform_faultRegisters (s : State) (d : Deed) :
    (s.perform d).status = s.status ∧ (s.perform d).cause = s.cause ∧ (s.perform d).fcmd = s.fcmd := by
  cases d <;> exact ⟨rfl, rfl, rfl⟩

theorem State.perform_faulted (s : State) (d : Deed) : (s.perform d).faulted = s.faulted :=
  congrArg (BitVec.getLsbD · 0) (s.perform_faultRegisters d).1

/-- A command raises no fault exactly where its preconditions hold. -/
theorem faultOf_eq_none_iff (s : State) (i : Instr) : faultOf s i = none ↔ precondition s i := by
  cases i with
  | chan | inb | aclr | aavg => exact iff_of_true rfl trivial
  | pack => exact check_eq_none_iff
  | idx =>
    rw [faultOf, Option.or_eq_none_iff, check_eq_none_iff, check_eq_none_iff, index_lt_iff (by decide), sgn_eq_toInt,
      sgn_eq_toInt]
    simp only [and_assoc]
    exact Iff.rfl
  | aing =>
    rw [faultOf, check_eq_none_iff, countMax_eq]
    exact Iff.rfl
  | aingi =>
    rw [faultOf, Option.or_eq_none_iff, check_eq_none_iff, check_eq_none_iff, srcValid_iff_validSource, inBounds_iff,
      sgn_eq_toInt, sgn_eq_toInt, countMax_eq]
    exact and_congr_right fun _ => ⟨fun h hfull hin => h hin hfull, fun h hin hfull => h hfull hin⟩
  | squash =>
    rw [faultOf, Option.or_eq_none_iff, check_eq_none_iff, check_eq_none_iff, srcValid_iff_validSource,
      ← Nat.one_le_iff_ne_zero, ← Nat.one_le_iff_ne_zero]
    exact Iff.rfl
  | crot =>
    rw [faultOf, check_eq_none_iff, srcValid_iff_validSource]
    exact Iff.rfl
  | blur =>
    rw [faultOf, Option.or_eq_none_iff, check_eq_none_iff, check_eq_none_iff, srcValid_iff_validSource, sgn_eq_toInt]
    exact Iff.rfl
  | expand =>
    rw [faultOf, Option.or_eq_none_iff, check_eq_none_iff, check_eq_none_iff, srcValid_iff_validSource]
    exact Iff.rfl

/-- Settles O27: the preconditions decide between the deed of a command, which leaves FAULT alone, and its fault. -/
theorem commandsAreTotalOverTheirPreconditions : Obligations.CommandsAreTotalOverTheirPreconditions := by
  intro i s hf
  refine ⟨fun h => ⟨_, exec_eq_nextOf i s, ?completes⟩, fun h => ⟨_, exec_eq_nextOf i s, ?faults⟩⟩
  case completes => rw [nextOf_of_none ((faultOf_eq_none_iff s i).2 h), State.perform_faulted, hf]
  case faults =>
    obtain ⟨c, hc⟩ := Option.ne_none_iff_exists'.1 (mt (faultOf_eq_none_iff s i).1 h)
    rw [nextOf_of_some hc, State.enterFault_faulted]

/-- No check reads a memory (60_exceptions.md R101). -/
theorem faultOf_withMemories (s : State) (m d : Memory) (i : Instr) :
    faultOf { s with src := m, dst := d } i = faultOf s i := by
  cases i <;> rfl

/-- Settles O26: the two runs raise the same fault, or none, and then no deed writes STATUS, CAUSE or FCMD. -/
theorem faultsDoNotDependOnPixels : Obligations.FaultsDoNotDependOnPixels := by
  intro i s t t' m d ht ht'
  obtain rfl := eq_nextOf_of_exec ht
  obtain rfl := eq_nextOf_of_exec ht'
  have hsame := faultOf_withMemories s m d i
  cases hfault : faultOf s i with
  | some c =>
    rw [nextOf_of_some hfault, nextOf_of_some (hsame.trans hfault)]
    exact ⟨rfl, rfl, rfl⟩
  | none =>
    rw [nextOf_of_none hfault, nextOf_of_none (hsame.trans hfault)]
    obtain ⟨hstatus, hcause, hfcmd⟩ := s.perform_faultRegisters (deedOf s i)
    rw [hstatus, hcause, hfcmd]
    exact State.perform_faultRegisters _ _

/-- Other values in the averager and RES (10_state.md R22). -/
def State.withAveragerAndRes (s : State) (r g b a n v : Word) : State :=
  { s with sumR := r, sumG := g, sumB := b, sumA := a, count := n, res := v }

/-- A transform reads neither the averager nor RES, and carries them through (10_state.md R22). -/
theorem nextOf_withAveragerAndRes {i : Instr} (hi : i = .squash ∨ i = .crot ∨ i = .blur ∨ i = .expand) (s : State)
    (r g b a n v : Word) :
    nextOf (s.withAveragerAndRes r g b a n v) i = (nextOf s i).withAveragerAndRes r g b a n v := by
  have hsame : faultOf (s.withAveragerAndRes r g b a n v) i = faultOf s i := by
    obtain rfl | rfl | rfl | rfl := hi <;> rfl
  cases hfault : faultOf s i with
  | some c =>
    rw [nextOf_of_some hfault, nextOf_of_some (hsame.trans hfault)]
    rfl
  | none =>
    rw [nextOf_of_none hfault, nextOf_of_none (hsame.trans hfault)]
    obtain rfl | rfl | rfl | rfl := hi <;> rfl

/-- Settles O29: with other values in the averager and RES the same but for those values; with the state's own, its own. -/
theorem transformsIgnoreAveragerAndRes : Obligations.TransformsIgnoreAveragerAndRes := by
  intro i s r g b a n v hi
  have hkept : nextOf s i = (nextOf s i).withAveragerAndRes s.sumR s.sumG s.sumB s.sumA s.count s.res :=
    nextOf_withAveragerAndRes hi s s.sumR s.sumG s.sumB s.sumA s.count s.res
  refine ⟨nextOf s i, exec_eq_nextOf i s, (congrArg State.sumR hkept :), (congrArg State.sumG hkept :),
    (congrArg State.sumB hkept :), (congrArg State.sumA hkept :), (congrArg State.count hkept :),
    (congrArg State.res hkept :), ?_⟩
  exact (exec_eq_nextOf i _).trans (congrArg Host.Outcome.next (nextOf_withAveragerAndRes hi s r g b a n v))

/-- Another content of the DST memory and its descriptor (00_scope.md R9). -/
def State.withDestination (s : State) (d : Memory) (w h : Word) : State :=
  { s with dst := d, dstW := w, dstH := h }

theorem faultOf_withDestination (s : State) (d : Memory) (w h : Word) (i : Instr) :
    faultOf (s.withDestination d w h) i = faultOf s i := by
  cases i <;> rfl

theorem deedOf_withDestination (s : State) (d : Memory) (w h : Word) (i : Instr) :
    deedOf (s.withDestination d w h) i = deedOf s i := by
  cases i <;> rfl

/-- A command carries another destination through, or writes the same image over it (00_scope.md R9). -/
theorem nextOf_withDestination (s : State) (d : Memory) (w h : Word) (i : Instr) :
    ((nextOf s i).dst = s.dst ∧ (nextOf s i).dstW = s.dstW ∧ (nextOf s i).dstH = s.dstH ∧
      nextOf (s.withDestination d w h) i = (nextOf s i).withDestination d w h) ∨
    ∃ x y px, nextOf s i = s.writeDestination x y px ∧
      nextOf (s.withDestination d w h) i = (s.withDestination d w h).writeDestination x y px := by
  have hsame := faultOf_withDestination s d w h i
  cases hfault : faultOf s i with
  | some c =>
    rw [nextOf_of_some hfault, nextOf_of_some (hsame.trans hfault)]
    exact .inl ⟨rfl, rfl, rfl, rfl⟩
  | none =>
    rw [nextOf_of_none hfault, nextOf_of_none (hsame.trans hfault), deedOf_withDestination]
    cases deedOf s i with
    | result | averager | skip => exact .inl ⟨rfl, rfl, rfl, rfl⟩
    | destination x y px => exact .inr ⟨x, y, px, rfl, rfl⟩

/-- Settles O20: a destination word inside the image a command writes is the same in both runs, every other is as it was. -/
theorem commandsNeverReadDestination : Obligations.CommandsNeverReadDestination := by
  intro i s t d w h ht
  obtain rfl := eq_nextOf_of_exec ht
  refine ⟨_, exec_eq_nextOf i (s.withDestination d w h), ?_⟩
  obtain ⟨hdst, hdstW, hdstH, hkept⟩ | ⟨x, y, px, hwritten, hwritten'⟩ := nextOf_withDestination s d w h i
  · rw [hkept]
    exact ⟨rfl, .inr ⟨hdstW, hdstH, rfl, rfl⟩, fun a => .inr ⟨congrArg (Memory.read? · a) hdst, rfl⟩⟩
  · rw [hwritten, hwritten']
    refine ⟨rfl, .inl ⟨rfl, rfl⟩, fun a => ?_⟩
    by_cases ha : a < x * y
    · exact .inl (by rw [State.read?_writeDestination_word _ px ha, State.read?_writeDestination_word _ px ha])
    · have hpast : x * y ≤ a := Nat.le_of_not_lt ha
      exact .inr ⟨State.read?_writeDestination_past s px hpast, State.read?_writeDestination_past _ px hpast⟩

end Sys2Proof.Machine
end

section
/-! What a step can change (00_scope.md R9, 10_state.md): RES, the averager and DST_W, DST_H by commands only, and STATUS,
CAUSE and FCMD by fault entry only. -/

namespace Sys2Proof.Machine
open Sys2Proof.Statements

/-- Settles O19: fault entry and each effect have that frame. -/
theorem commandsLeaveOperandsAndSource : Obligations.CommandsLeaveOperandsAndSource := by
  intro i s t h
  obtain ⟨c, rfl⟩ | he := exec_next_cases h
  · exact ⟨rfl, rfl, rfl, rfl, rfl, rfl, rfl, rfl, rfl, rfl, rfl⟩
  · exact he.frame

/-- The registers only a command writes: RES, the averager, and the destination descriptor (10_state.md R11, R16, R20). -/
def State.results (s : State) : Word × (Word × Word × Word × Word × Word) × Word × Word :=
  (s.res, (s.sumR, s.sumG, s.sumB, s.sumA, s.count), (s.dstW, s.dstH))

/-- A host write stores nothing into a register that is read-only (20_memory.md R36, condition 4). -/
theorem Stored.readOnly {s t : State} (h : Stored s t) :
    t.results = s.results ∧ (t.status, t.cause, t.fcmd) = (s.status, s.cause, s.fcmd) := by
  cases h <;> exact ⟨rfl, rfl⟩

/-- A step that changes RES, the averager or the destination descriptor is a reset, or a command that has its effect and does
not fault. -/
theorem resetNext_or_effect_of_results_ne {s t : State} (hstep : step s = .next t) (hne : t.results ≠ s.results) :
    resetNext s ∨ (t.faulted = false ∧ ∃ i, runs s i ∧ ∃ rest t₀, Effect (s.accept rest) i t₀ ∧ t = t₀.respond .ok) := by
  cases step_next_cases hstep with
  | idle | read | fault => exact absurd rfl hne
  | reset rest hin => exact .inl ⟨rest, hin⟩
  | store rest a d t hin hs => exact absurd hs.readOnly.1 hne
  | command rest w i t hin hf hi he => exact .inr ⟨he.faulted.trans hf, i, ⟨rest, w, hin, hi, hf⟩, rest, t, he, rfl⟩

/-- Settles O21: of the four effects only that of the five commands writes RES. -/
theorem onlyFiveCommandsWriteRes : Obligations.OnlyFiveCommandsWriteRes := by
  intro s t hstep hne
  refine (resetNext_or_effect_of_results_ne hstep fun h => hne (congrArg Prod.fst h)).imp_right ?_
  rintro ⟨hf, i, hruns, rest, t₀, he, rfl⟩
  cases he with
  | result v hi => exact ⟨hf, i, hruns, hi⟩
  | averager | skip | destination => exact absurd rfl hne

/-- Settles O22: of the four effects only that of the three commands writes the averager. -/
theorem onlyThreeCommandsWriteTheAverager : Obligations.OnlyThreeCommandsWriteTheAverager := by
  intro s t hstep hne
  refine (resetNext_or_effect_of_results_ne hstep fun h => hne (congrArg (·.2.1) h)).imp_right ?_
  rintro ⟨hf, i, hruns, rest, t₀, he, rfl⟩
  cases he with
  | averager v hi => exact ⟨hf, i, hruns, hi⟩
  | result | skip | destination => exact absurd rfl hne

/-- Settles O23: of the four effects only that of the transforms writes DST_W and DST_H. -/
theorem onlyTransformsWriteTheDestinationDescriptor : Obligations.OnlyTransformsWriteTheDestinationDescriptor := by
  intro s t hstep hne
  refine (resetNext_or_effect_of_results_ne hstep fun h => hne (congrArg (·.2.2) h)).imp_right ?_
  rintro ⟨hf, i, hruns, rest, t₀, he, rfl⟩
  cases he with
  | destination w h px hi => exact ⟨hf, i, hruns, hi⟩
  | result | averager | skip => exact absurd rfl hne

/-- Settles O24: no store and no effect writes the three registers, and fault entry writes the command word and a cause. -/
theorem faultRegistersChangeOnlyOnFaultEntry : Obligations.FaultRegistersChangeOnlyOnFaultEntry := by
  intro s t hstep hne
  cases step_next_cases hstep with
  | idle | read => exact absurd rfl hne
  | reset rest hin => exact .inl ⟨rest, hin⟩
  | store rest a d t hin hs => exact absurd hs.readOnly.2 hne
  | fault rest w c hin hf =>
    obtain ⟨hpos, hle⟩ := causeCode_range c
    exact .inr ⟨hf, State.enterFault_faulted _ c w, rest, w, hin, rfl, hpos, hle⟩
  | command rest w i t hin hf hi he =>
    obtain ⟨hstatus, hcause, hfcmd⟩ := he.faultRegisters
    exact absurd (Prod.ext hstatus (Prod.ext hcause hfcmd)) hne

end Sys2Proof.Machine
end

section
/-! The images (44_channel_rotator.md to 46_bilinear_upsampler.md): the closed form of BLUR, the candidates of EXPAND, and the
laws that chain transforms. -/

namespace Sys2Proof.Machine
open Sys2Proof.Statements

/-- Settles O48: the candidates the engine does not visit are those the averager skips. -/
theorem blurWindowIsWholeNeighborhood : Obligations.BlurWindowIsWholeNeighborhood :=
  fun img _ _ d => blurPx_eq_averageOf_blurNeighborhood img d

/-- The candidates the engine visits lie in the image (45_blur_engine.md R92). -/
theorem inBounds_of_mem_blurCandidates {w h i j d : Nat} (hi : i < h) (hj : j < w) :
    ∀ c ∈ blurCandidates w h i j d, inBounds w h c.1 c.2 = true := by
  intro c hc
  rw [← filter_blurNeighborhood d hi hj] at hc
  exact (List.mem_filter.1 hc).2

/-- The pixels of the clipped window, row by row (45_blur_engine.md R92). -/
def windowPixels (img : Image) (i j d : Nat) : List Word :=
  (window img.h i d).flatMap fun r => (window img.w j d).map fun c => img.px (r * img.w + c)

theorem blurPx_eq_average_windowPixels (img : Image) {i j : Nat} (d : Nat) (hi : i < img.h) (hj : j < img.w) :
    blurPx img i j d = average ((windowPixels img i j d).foldl ingest fresh) := by
  rw [blurPx, averageOf, foldl_ingestFromImage_of_inBounds img _ (inBounds_of_mem_blurCandidates hi hj), blurCandidates,
    windowPixels]
  simp only [List.map_flatMap, List.map_map, Function.comp_def, index_natCast]

/-- How many indices one side of the window has: at least the pixel's own. -/
theorem length_window {n c : Nat} (d : Nat) (hc : c < n) :
    (window n c d).length = min (n - 1) (c + d) - (c - d) + 1 := by
  rw [window, List.length_range']
  omega

theorem length_windowPixels (img : Image) {i j : Nat} (d : Nat) (hi : i < img.h) (hj : j < img.w) :
    (windowPixels img i j d).length =
      (min (img.h - 1) (i + d) - (i - d) + 1) * (min (img.w - 1) (j + d) - (j - d) + 1) := by
  rw [← length_window d hi, ← length_window d hj]
  simp [windowPixels, List.length_flatMap]

/-- A sum along one side of the window is the sum over its interval: `Finset.Icc` on `Nat` is that list. -/
theorem sum_map_window (n c d : Nat) (f : Nat → Nat) :
    ((window n c d).map f).sum = ∑ x ∈ Finset.Icc (c - d) (min (n - 1) (c + d)), f x := rfl

theorem sum_map_windowPixels (img : Image) (i j d : Nat) (g : Word → Nat) :
    ((windowPixels img i j d).map g).sum =
      ∑ r ∈ Finset.Icc (i - d) (min (img.h - 1) (i + d)),
        ∑ c ∈ Finset.Icc (j - d) (min (img.w - 1) (j + d)), g (img.px (r * img.w + c)) := by
  simp only [windowPixels, List.flatMap, List.map_flatten, List.sum_flatten, List.map_map, Function.comp_def,
    sum_map_window]

/-- The closed form of 45_blur_engine.md R92 for an image: the mean of a channel over the clipped window. -/
theorem chan_blurPx (img : Image) {i j : Nat} (d : Nat) (hi : i < img.h) (hj : j < img.w) (k : Channel) :
    chan (blurPx img i j d) k =
      (∑ r ∈ Finset.Icc (i - d) (min (img.h - 1) (i + d)),
        ∑ c ∈ Finset.Icc (j - d) (min (img.w - 1) (j + d)), chan (img.px (r * img.w + c)) k) /
      ((min (img.h - 1) (i + d) - (i - d) + 1) * (min (img.w - 1) (j + d) - (j - d) + 1)) := by
  have hlength := length_windowPixels img d hi hj
  have hne : windowPixels img i j d ≠ [] := by
    rw [← List.length_pos_iff, hlength]
    exact Nat.mul_pos (Nat.succ_pos _) (Nat.succ_pos _)
  rw [blurPx_eq_average_windowPixels img d hi hj, chan_average_foldl_ingest hne, hlength, sum_map_windowPixels]

/-- Settles O47: the closed form of each pixel of the source image BLUR sees. -/
theorem blurClosedForm : Obligations.BlurClosedForm := by
  intro s d i j hvalid hd hi hj
  rw [← sgn_eq_toInt] at hd
  exact ⟨_, _, s.srcWord (i * u s.srcW + j), exec_blur (srcValid_iff_validSource.2 hvalid) hd,
    State.read?_writeDestination_pixel s _ hi hj, readsSource_srcWord s _, Nat.mul_pos (Nat.succ_pos _) (Nat.succ_pos _),
    chan_blurPx (s.sourceImage (i * u s.srcW + j)) d hi hj⟩

/-- The row and the column of a word of an image (10_state.md R17). -/
theorem row_col_of_lt {w h m : Nat} (hw : 1 ≤ w) (hm : m < w * h) : m / w < h ∧ m % w < w ∧ m / w * w + m % w = m :=
  ⟨Nat.div_lt_of_lt_mul hm, Nat.mod_lt m hw, Nat.div_add_mod' m w⟩

/-- A single candidate in bounds is its own average (42_averager.md R78). -/
theorem averageOf_singleton {img : Image} {r c : Nat} (hr : r < img.h) (hc : c < img.w) :
    averageOf img [((r : Int), (c : Int))] = img.px (r * img.w + c) := by
  have hin : inBounds img.w img.h (r : Int) (c : Int) = true :=
    inBounds_iff.2 ⟨Int.natCast_nonneg r, Int.ofNat_lt.2 hr, Int.natCast_nonneg c, Int.ofNat_lt.2 hc⟩
  calc averageOf img [((r : Int), (c : Int))]
      = average (ingestFromImage fresh img (r : Int) (c : Int)) := rfl
    _ = average (ingest fresh (img.px (index img.w (r : Int) (c : Int)))) := by rw [ingestFromImage, if_pos hin]
    _ = img.px (r * img.w + c) := by rw [average_ingest_fresh, index_natCast]

/-- At distance 0 the neighborhood is the pixel alone (45_blur_engine.md R94). -/
theorem blurNeighborhood_zero (i j : Nat) : blurNeighborhood i j 0 = [((i : Int), (j : Int))] := by
  simp [blurNeighborhood, offsets]

/-- Settles O49: at distance 0 each pixel is the average of itself alone. -/
theorem blurAtDistanceZeroCopies : Obligations.BlurAtDistanceZeroCopies := by
  intro s hvalid hzero
  have hdist : sgn s.a0 = ((0 : Nat) : Int) := by rw [hzero]; rfl
  refine ⟨_, exec_blur (srcValid_iff_validSource.2 hvalid) hdist, fun m v (hm : m < u s.srcW * u s.srcH) hread => ?_⟩
  obtain ⟨hrow, hcol, hindex⟩ := row_col_of_lt hvalid.1 hm
  rw [State.read?_writeDestination_word s _ hm, blurPx_eq_averageOf_blurNeighborhood _ 0 hrow hcol,
    blurNeighborhood_zero, averageOf_singleton hrow hcol]
  exact congrArg some (State.srcWord_of_read? ((congrArg s.src.read? hindex).trans hread))

/-- The rows, or the columns, of the candidates of a destination pixel (46_bilinear_upsampler.md R95). -/
def expandSide (i : Nat) : List Int :=
  if i % 2 = 0 then [((i / 2 : Nat) : Int)] else [((i / 2 : Nat) : Int), ((i / 2 : Nat) : Int) + 1]

/-- The candidates are the product of their rows and their columns. -/
theorem expandCandidates_eq_product (i j : Nat) : expandCandidates i j = (expandSide i).product (expandSide j) := by
  unfold expandCandidates expandSide
  split <;> split <;> rfl

/-- One side has two candidates in bounds on an odd row or column that is not the last, and one elsewhere. -/
theorem length_filter_expandSide {n i : Nat} (hi : i < 2 * n) :
    ((expandSide i).filter fun x => decide (0 ≤ x ∧ x < (n : Int))).length =
      if i % 2 = 1 ∧ i ≠ 2 * n - 1 then 2 else 1 := by
  have hown : (0 : Int) ≤ ((i / 2 : Nat) : Int) ∧ ((i / 2 : Nat) : Int) < (n : Int) := by omega
  unfold expandSide
  by_cases heven : i % 2 = 0
  · rw [if_pos heven, if_neg (by omega)]
    simp only [List.filter_cons, List.filter_nil, hown, and_self, decide_true, if_true, List.length_singleton]
  · rw [if_neg heven]
    by_cases hlast : i = 2 * n - 1
    · have hout : ¬ (0 ≤ ((i / 2 : Nat) : Int) + 1 ∧ ((i / 2 : Nat) : Int) + 1 < (n : Int)) := by omega
      rw [if_neg (by omega)]
      simp only [List.filter_cons, List.filter_nil, hown, decide_eq_false hout, and_self, decide_true, if_true,
        Bool.false_eq_true, if_false, List.length_singleton]
    · have hnext : (0 : Int) ≤ ((i / 2 : Nat) : Int) + 1 ∧ ((i / 2 : Nat) : Int) + 1 < (n : Int) := by omega
      rw [if_pos (by omega)]
      simp only [List.filter_cons, List.filter_nil, hown, hnext, and_self, decide_true, if_true, List.length_cons,
        List.length_nil]

/-- Settles O51: the in-bounds candidates are the product of those of the two sides. -/
theorem expandCandidateCounts : Obligations.ExpandCandidateCounts := by
  intro w h i j hi hj
  have hsides := filter_product (fun row => decide (0 ≤ row ∧ row < (h : Int)))
    (fun col => decide (0 ≤ col ∧ col < (w : Int))) (expandSide i) (expandSide j)
  simp only [inBounds_eq_and]
  rw [expandCandidates_eq_product, hsides, ← length_filter_expandSide hi, ← length_filter_expandSide hj]
  exact List.length_product _ _

/-- An image whose double fits has sides whose doubles fit a register, for the MAXPIX of 00_scope.md R4. -/
theorem double_lt_of_fits {s : State} (hmax : s.maxpix ≤ 2 ^ 24) (hvalid : validSource s)
    (hfit : 4 * u s.srcW * u s.srcH ≤ s.maxpix) : 2 * u s.srcW < 4294967296 ∧ 2 * u s.srcH < 4294967296 := by
  obtain ⟨hw, hh, -⟩ := hvalid
  constructor <;> nlinarith [show 1 ≤ u s.srcW from hw, show 1 ≤ u s.srcH from hh]

/-- Settles O52: the sizes fit their registers, and the even pixel has one candidate, which is in bounds. -/
theorem expandSizeAndEvenCopies : Obligations.ExpandSizeAndEvenCopies := by
  intro s hmax hvalid hfit
  obtain ⟨hw, hh⟩ := double_lt_of_fits hmax hvalid hfit
  refine ⟨_, exec_expand (srcValid_iff_validSource.2 hvalid) hfit, u_toWord hw, u_toWord hh, fun r c v hr hc hread => ?_⟩
  have hrow : 2 * r < 2 * u s.srcH := Nat.mul_lt_mul_of_pos_left hr (by decide)
  have hcol : 2 * c < 2 * u s.srcW := Nat.mul_lt_mul_of_pos_left hc (by decide)
  refine (State.read?_writeDestination_pixel s _ hrow hcol).trans (congrArg some ?_)
  rw [expandPx, expandCandidates_even_even, averageOf_singleton hr hc]
  exact State.srcWord_of_read? hread

/-- The host's copy of a destination image and its descriptor to the source, and two operands for the next command
(70_reset_and_hazards.md R125). -/
def State.carried (t : State) (x y : Word) : State :=
  { t with src := t.dst, srcW := t.dstW, srcH := t.dstH, a0 := x, a1 := y }

/-- SQUASH by 2 and 2 of a carried image of even sides: half the size, and pixel `(i, j)` is the written pixel `(2i, 2j)`. -/
theorem exec_squash_carried {t : State} {w h : Nat} (hw : u t.dstW = 2 * w) (hh : u t.dstH = 2 * h) (hwpos : 1 ≤ w)
    (hhpos : 1 ≤ h) (hfit : 2 * w * (2 * h) ≤ t.maxpix) :
    ∃ t', exec .squash (t.carried 2 2) = .next t' ∧ t'.dstW = toWord w ∧ t'.dstH = toWord h ∧
      ∀ i j v, i < h → j < w → t.dst.read? (2 * i * (2 * w) + 2 * j) = some v → t'.dst.read? (i * w + j) = some v := by
  have hvalid : validSource (t.carried 2 2) := by
    have hsizes : 1 ≤ u t.dstW ∧ 1 ≤ u t.dstH ∧ u t.dstW * u t.dstH ≤ t.maxpix := by
      rw [hw, hh]
      omega
    exact hsizes
  have hhalfW : u t.dstW / 2 = w := by omega
  have hhalfH : u t.dstH / 2 = h := by omega
  obtain ⟨-, -, -, hsamples⟩ := squashSamplesOrFaults (t.carried 2 2)
  obtain ⟨t', ht', ⟨hframe, -⟩, hpixel⟩ := hsamples hvalid (Nat.le_succ 1) (Nat.le_succ 1)
  have hpixel : ∀ i j, i < u t.dstH / 2 → j < u t.dstW / 2 → ∃ p, t'.dst.read? (i * (u t.dstW / 2) + j) = some p ∧
      ∀ v, t.dst.read? (i * 2 * u t.dstW + j * 2) = some v → p = v := hpixel
  rw [hhalfW, hhalfH, hw] at hpixel
  refine ⟨t', ht', ?width, ?height, fun i j v hi hj hread => ?word⟩
  case width => exact (congrArg State.dstW hframe).trans (congrArg toWord hhalfW)
  case height => exact (congrArg State.dstH hframe).trans (congrArg toWord hhalfH)
  case word =>
    obtain ⟨p, hp, hsample⟩ := hpixel i j hi hj
    rw [hp, hsample v (by rwa [Nat.mul_comm i, Nat.mul_comm j])]

/-- Settles O53: pixel `(r, c)` of the halved image is the even pixel `(2r, 2c)` of the doubled one, which EXPAND has copied. -/
theorem squashUndoesExpand : Obligations.SquashUndoesExpand := by
  intro s hmax hvalid hfit
  obtain ⟨t, ht, hw, hh, heven⟩ := expandSizeAndEvenCopies s hmax hvalid hfit
  obtain ⟨-, -, -, -, -, -, -, hmaxpix, -⟩ := commandsLeaveOperandsAndSource _ s t ht
  have hfit' : 2 * u s.srcW * (2 * u s.srcH) ≤ t.maxpix := by
    calc 2 * u s.srcW * (2 * u s.srcH) = 4 * u s.srcW * u s.srcH := by ring
      _ ≤ t.maxpix := hmaxpix ▸ hfit
  obtain ⟨hwpos, hhpos, -⟩ := hvalid
  obtain ⟨t', ht', hw', hh', hword⟩ := exec_squash_carried hw hh hwpos hhpos hfit'
  refine ⟨t, t', ht, ht', hw'.trans (toWord_u s.srcW), hh'.trans (toWord_u s.srcH), fun m v hm hread => ?_⟩
  obtain ⟨hrow, hcol, hindex⟩ := row_col_of_lt hwpos hm
  rw [← hindex] at hread ⊢
  exact hword _ _ v hrow hcol (heven _ _ v hrow hcol hread)

/-- CROT, with its destination carried back to SRC: the source image is again valid and has as many pixels, and each written
word is there rotated (44_channel_rotator.md R86). -/
theorem exec_crot_carried {s : State} (hvalid : validSource s) :
    ∃ t, exec .crot s = .next t ∧ validSource { t with src := t.dst } ∧
      u t.srcW * u t.srcH = u s.srcW * u s.srcH ∧
      ∀ m v, m < u s.srcW * u s.srcH → s.src.read? m = some v → t.dst.read? m = some (rot v) := by
  obtain ⟨t, ht, -, hword⟩ := exec_crot_rotates (srcValid_iff_validSource.2 hvalid)
  obtain ⟨-, -, -, -, hw, hh, -, hmaxpix, -⟩ := commandsLeaveOperandsAndSource _ s t ht
  refine ⟨t, ht, ?valid, by rw [hw, hh], fun m v hm hread => ?word⟩
  case valid =>
    unfold validSource
    rw [hw, hh, hmaxpix]
    exact hvalid
  case word => rw [hword m hm, State.srcWord_of_read? hread]

/-- Settles O54: each run rotates every written word once more, and three rotations are the identity. -/
theorem crotThreeTimesRestoresTheImage : Obligations.CrotThreeTimesRestoresTheImage := by
  intro s hvalid
  obtain ⟨t₁, ht₁, hvalid₁, hsize₁, hword₁⟩ := exec_crot_carried hvalid
  obtain ⟨t₂, ht₂, hvalid₂, hsize₂, hword₂⟩ := exec_crot_carried hvalid₁
  obtain ⟨t₃, ht₃, -, -, hword₃⟩ := exec_crot_carried hvalid₂
  refine ⟨t₁, t₂, t₃, ht₁, ht₂, ht₃, fun m v hm hread => ?_⟩
  have hm₁ : m < u t₁.srcW * u t₁.srcH := hm.trans_eq hsize₁.symm
  have hm₂ : m < u t₂.srcW * u t₂.srcH := hm₁.trans_eq hsize₂.symm
  rw [hword₃ m _ hm₂ (hword₂ m _ hm₁ (hword₁ m v hm hread)), rot_rot_rot]

end Sys2Proof.Machine
end
